-- ==== Sys2Proof/Word.lean ====
section
/-! DEFINITION. The word types of the engine (00_scope.md rules R8 to R10). -/

namespace Sys2Proof

/-- The source's `Num`: the contents of every operand, result and command word (rule R8). -/
abbrev Word := BitVec 64

/-- The source's `BigNum`: the reduction unit's product (rule R9). -/
abbrev Wide := BitVec 128

/-- One byte lane of the register port (20_memory.md rule R74); also the width of `ERRCODE` and `LASTOP`. -/
abbrev Byte := BitVec 8

end Sys2Proof
end

