-- ==== Sys2Proof/Machine/Agents.lean ====
section
/-! DEFINITION. The data the engine's surroundings exchange with it: register names, host accesses, entropy
requests and answers, host program lines, and the events of the one ordered stream of 20_memory.md rule R81. -/

namespace Sys2Proof.Machine

/-- The named registers of the window (10_state.md rule R32). -/
inductive Reg where
  | id | ctrl | status | cmd | opa | opb | opc | opd | ope | res0 | res1
  deriving DecidableEq, Repr, Inhabited

/-- A request `Draw(lo, hi)` at the entropy port (00_scope.md rule R20). -/
structure DrawRequest where
  lo : Word
  hi : Word
  deriving DecidableEq, Repr, Inhabited

/-- An answer of the entropy port (00_scope.md rule R20; 60_exceptions.md rule R207 `DrawAnswer`). -/
inductive DrawAnswer where
  | ok (v : Word)
  | fail
  deriving DecidableEq, Repr, Inhabited

/-- A bus access to the register port, admitted or not (00_scope.md rule R17): `n` is its width in bytes. -/
inductive Access where
  | memRead (addr n : Nat)
  | memWrite (addr n : Nat) (v : Word)
  deriving DecidableEq, Repr, Inhabited

/-- What 00_scope.md rules R14 and R15 give no value for, by the operator that lacks it (log entry 9). -/
inductive OpenOperator where
  | sub | mod | div | zext | slice | concat
  deriving DecidableEq, Repr, Inhabited

/-- Host expressions (30_encoding.md rule R99): the notation of 00_scope.md rules R14 and R15 on host
variables, and the bitwise `&` of program P3 (log entry 8). A variable is named by a number.
DESIGN CHOICE (log entry 8): R14 and R15 do not say what may stand as an index, a bound or a width. Here the index of
`e[i]` and the bounds of `e[hi:lo]` are any host expressions, a literal among them, as 40_modexp.md rule R117 writes `e[j]`
with a variable j; the N of `zext_N` and `trunc_N`, a subscript, and the width in a concatenation are literal numbers. -/
inductive HostExpr where
  | lit (n : Nat)
  | var (t : Nat)
  /-- `e[i]` -/
  | bit (e i : HostExpr)
  /-- `e[hi:lo]` -/
  | slice (e hi lo : HostExpr)
  /-- `a || b` with `b` an `n`-bit value; where b's value does not fit in n bits the whole value is free (log entry 9) -/
  | concat (a : HostExpr) (n : Nat) (b : HostExpr)
  | add (a b : HostExpr)
  | sub (a b : HostExpr)
  | mul (a b : HostExpr)
  | mod (a b : HostExpr)
  | div (a b : HostExpr)
  | pow (a b : HostExpr)
  | shr (a b : HostExpr)
  /-- `zext_n(e)` -/
  | zext (n : Nat) (e : HostExpr)
  /-- `trunc_n(e)` -/
  | trunc (n : Nat) (e : HostExpr)
  | and (a b : HostExpr)
  deriving DecidableEq, Repr, Inhabited

/-- The lines of a host program (30_encoding.md rules R98 and R99). A label is named by a number. -/
inductive HostLine where
  /-- `wr REG, e` -/
  | wr (r : Reg) (e : HostExpr)
  /-- `rd REG, t` -/
  | rd (r : Reg) (t : Nat)
  /-- `L:` -/
  | label (l : Nat)
  /-- `set t, e` -/
  | set (t : Nat) (e : HostExpr)
  /-- `bnz e, L` -/
  | bnz (e : HostExpr) (l : Nat)
  /-- `b L` -/
  | b (l : Nat)
  | halt
  deriving DecidableEq, Repr, Inhabited

/-- One bus transaction of the host program (30_encoding.md rule R98): `W off data`, or `R off` with the
value it returned (95_test_vectors.md section 3). -/
inductive BusTransfer where
  | w (off : Nat) (data : Word)
  | r (off : Nat) (value : Word)
  deriving DecidableEq, Repr, Inhabited

/-- The events of the engine's one ordered stream (20_memory.md rule R81; 70_reset_and_hazards.md rule R240;
10_state.md rule R47): which agent moves, and with what. -/
inductive Event where
  /-- The engine agent takes its turn on the command in flight (60_exceptions.md rule R206). -/
  | engine
  /-- The host agent executes the next line of its program (30_encoding.md rules R98, R99). -/
  | host
  /-- An access of any other requester reaches the port (20_memory.md rules R71, R76, R80). -/
  | access (a : Access)
  /-- The entropy port answers (10_state.md rule R47). -/
  | entropy (a : DrawAnswer)
  /-- The platform asserts the reset input (70_reset_and_hazards.md rule R240). -/
  | reset
  deriving DecidableEq, Repr, Inhabited

end Sys2Proof.Machine
end

