-- ==== Sys2Proof/Config.lean ====
section
/-! DEFINITION. What the platform fixes and what the spec leaves free. Each constant has no body: no proof can
see a value of it. -/

namespace Sys2Proof.Config

open Sys2Proof.Machine

/-- `BASE_ADDR`, the byte address of the register window (00_scope.md rule R13; 20_memory.md rule R79; log entry 3). -/
opaque baseAddr : Nat

/-- The surroundings' free moves: who moves next, and with which access or entropy answer, where
`State.events` has none waiting (60_exceptions.md rule R212; 10_state.md rule R47;
93_implementation_defined.md U2, U3, U4, U7; log entry 2). The argument is `State.tick`. -/
opaque freeEvent : Nat → Event

/-- The value of a host expression where 00_scope.md rules R14 and R15 state none: a subtraction below zero, a
remainder or quotient by zero, `zext_N` of a wider value, a slice with `hi < lo`, a concatenation whose right part does not
fit its width. The list holds all the operator's operands, in their written order (DESIGN CHOICE, log entry 9). -/
opaque openValue : OpenOperator → List Nat → Nat

end Sys2Proof.Config
end

