-- ==== Sys2Proof/Syntax.lean ====
section
/-! DEFINITION. The engine's instructions: one constructor per row of spec/opcode_table.json. -/

namespace Sys2Proof

/-- The eight commands (30_encoding.md rule R92). No command carries an operand, an immediate or a
mode: every argument comes from `OPA` to `OPE` (rules R90, R93, R95), so no constructor has a field. -/
inductive Instr where
  /-- Modular exponentiation, 40_modexp.md rule R116. -/
  | modexp
  /-- Modular multiplication, 40_modexp.md rule R113. -/
  | mulmod
  /-- One Miller-Rabin witness test, 41_primality.md rule R142. -/
  | witness
  /-- Drawn witness tests, 41_primality.md rule R145. -/
  | mrtest
  /-- Primality decision by 25 drawn tests, 41_primality.md rule R150. -/
  | isprime
  /-- ElGamal encryption with a given exponent, 42_elgamal.md rule R172. -/
  | enc
  /-- ElGamal encryption with a drawn exponent, 42_elgamal.md rule R175. -/
  | encr
  /-- ElGamal decryption, 42_elgamal.md rule R178. -/
  | dec
  deriving DecidableEq, Repr

end Sys2Proof
end

