-- ==== Sys2Proof/Decode.lean ====
section
/-! DEFINITION. Command words: decoding, total on any word and any bytes, rejecting by name, and encoding
(30_encoding.md rules R90 to R97). -/

namespace Sys2Proof

/-- Why a command word, or a run of bytes, is no command (30_encoding.md rules R91, R96, R97). -/
inductive DecodeReject where
  /-- `w[63:8] != 0`. -/
  | rsvdNonzero
  /-- `w[63:8] == 0` and the opcode is 0x00 or 0x09 to 0xFF. -/
  | opcodeUndefined (op : Byte)
  /-- Not exactly eight bytes: every command word is 64 bits (rule R97). -/
  | notOneWord (n : Nat)
  deriving DecidableEq, Repr

/-- One row of the opcode map (30_encoding.md rule R92): a word matches when `(w & mask) == pattern`. -/
structure OpcodeRow where
  instr   : Instr
  pattern : Word
  mask    : Word
  deriving DecidableEq, Repr

/-- The opcode map (30_encoding.md rule R92; spec/opcode_table.json). -/
def opcodeTable : List OpcodeRow :=
  [ ⟨.modexp,  0x0000000000000001, 0xFFFFFFFFFFFFFFFF⟩,
    ⟨.mulmod,  0x0000000000000002, 0xFFFFFFFFFFFFFFFF⟩,
    ⟨.witness, 0x0000000000000003, 0xFFFFFFFFFFFFFFFF⟩,
    ⟨.mrtest,  0x0000000000000004, 0xFFFFFFFFFFFFFFFF⟩,
    ⟨.isprime, 0x0000000000000005, 0xFFFFFFFFFFFFFFFF⟩,
    ⟨.enc,     0x0000000000000006, 0xFFFFFFFFFFFFFFFF⟩,
    ⟨.encr,    0x0000000000000007, 0xFFFFFFFFFFFFFFFF⟩,
    ⟨.dec,     0x0000000000000008, 0xFFFFFFFFFFFFFFFF⟩ ]

/-- `OPCODE`, bits [7:0] of a command word (30_encoding.md rule R90). -/
def opcodeField (w : Word) : Byte := w.extractLsb' 0 8

/-- `RSVD`, bits [63:8] of a command word (30_encoding.md rule R90). -/
def rsvdField (w : Word) : BitVec 56 := w.extractLsb' 8 56

/-- The command a word selects, or why it is illegal (30_encoding.md rules R91, R92, R96). -/
def decode (w : Word) : Except DecodeReject Instr :=
  if rsvdField w ≠ 0 then .error .rsvdNonzero
  else
    match opcodeTable.find? (fun row => w &&& row.mask == row.pattern) with
    | some row => .ok row.instr
    | none => .error (.opcodeUndefined (opcodeField w))

/-- Byte lane `i` of a word: bits [8i+7:8i] (20_memory.md rule R74). -/
def byteLane (w : Word) (i : Nat) : Byte := w.extractLsb' (8 * i) 8

/-- The eight byte lanes of a word, lowest address first (20_memory.md rule R74). -/
def byteLanes (w : Word) : List Byte := (List.range 8).map (byteLane w)

/-- The word that eight byte lanes carry: lane i in bits [8i+7:8i] (20_memory.md rule R74). -/
def ofLanes (b0 b1 b2 b3 b4 b5 b6 b7 : Byte) : Word :=
  b0.setWidth 64 ||| b1.setWidth 64 <<< 8 ||| b2.setWidth 64 <<< 16 ||| b3.setWidth 64 <<< 24 |||
    b4.setWidth 64 <<< 32 ||| b5.setWidth 64 <<< 40 ||| b6.setWidth 64 <<< 48 ||| b7.setWidth 64 <<< 56

/-- Decoding on any bytes: exactly one 64-bit word is a command word (30_encoding.md rule R97). -/
def decodeBytes : List Byte → Except DecodeReject Instr
  | [b0, b1, b2, b3, b4, b5, b6, b7] => decode (ofLanes b0 b1 b2 b3 b4 b5 b6 b7)
  | bs => .error (.notOneWord bs.length)

/-- The command word of a command: `zext_64(OPCODE)` (30_encoding.md rule R92). -/
def encode : Instr → Word
  | .modexp  => 0x01
  | .mulmod  => 0x02
  | .witness => 0x03
  | .mrtest  => 0x04
  | .isprime => 0x05
  | .enc     => 0x06
  | .encr    => 0x07
  | .dec     => 0x08

/-- What the decoder reads from the bits `w` of an opcode-table row of `nbits` bits: the bits above `nbits` are 0,
the word is laid out in its byte lanes and given to `decodeBytes`. A number of more than 64 bits is no command word. -/
def decodeTableWord (nbits w : Nat) : Option Instr :=
  let v := w % 2 ^ nbits
  if v < 2 ^ 64 then (decodeBytes (byteLanes (BitVec.ofNat 64 v))).toOption else none

end Sys2Proof
end

