-- ==== Sys2Proof/Machine/State.lean ====
section
/-! DEFINITION. The machine's state (10_state.md rules R30 to R52) with the agents around the engine, why a step can
stop, and the state after reset. -/

namespace Sys2Proof.Machine

/-- The in-flight command state that outlives one event (10_state.md rule R46): the accepted command word and the
entropy draws answered so far, oldest first. Its operand values are `OPA` to `OPE` themselves, which cannot change
while it exists; the units' working values are not state, because a completion is one atomic step (rule R52). -/
structure InFlight where
  word    : Word
  answers : List DrawAnswer
  deriving DecidableEq, Repr

/-- The host agent (30_encoding.md rules R98, R99; 70_reset_and_hazards.md rule R257). -/
structure HostAgent where
  /-- The host program. -/
  prog  : List HostLine
  /-- The index in `prog` of the next line. -/
  line  : Nat
  /-- The host variables that are not 0, by rising name; every other variable is 0 (rule R99). -/
  vars  : List (Nat × Word)
  /-- The host program's bus transactions so far, oldest first. -/
  trace : List BusTransfer
  deriving DecidableEq, Repr

/-- The whole state. `ID` is a constant, `IRQ` and every register's read value are functions of this record, and
`CMD` holds no readable state (10_state.md rules R33, R42, R48, R52). -/
structure State where
  /-- `CTRL.IE` (10_state.md rule R34). -/
  ctrlIE   : Bool
  /-- `STATUS.BUSY` (rule R35). -/
  busy     : Bool
  /-- `STATUS.DONE` (rule R36). -/
  done     : Bool
  /-- `STATUS.ERR` (rule R37). -/
  err      : Bool
  /-- `STATUS.OVR` (rule R38). -/
  ovr      : Bool
  /-- `STATUS.ERRCODE` (rule R39). -/
  errcode  : Byte
  /-- `STATUS.LASTOP` (rule R40). -/
  lastop   : Byte
  /-- The operand registers (rule R43). -/
  opa      : Word
  opb      : Word
  opc      : Word
  opd      : Word
  ope      : Word
  /-- The result registers (rule R44). -/
  res0     : Word
  res1     : Word
  /-- The command in flight (rule R46). -/
  inflight : Option InFlight
  /-- The entropy port's outstanding request (rules R30, R47). -/
  drawReq  : Option DrawRequest
  /-- The host agent. -/
  host     : HostAgent
  /-- The model's own: the surroundings' next moves where they are already known, oldest first (log entry 2). -/
  events   : List Event
  /-- The model's own: how many free moves have been taken (log entry 2). -/
  tick     : Nat
  deriving DecidableEq, Repr

/-- The engine never traps, halts, locks up or aborts (60_exceptions.md rule R200), and a bad access is refused, not
faulted (20_memory.md rule R76): no event ends in a fault, so there is no reason to name. -/
inductive Fault where
  deriving DecidableEq, Repr

/-- Why a step can be refused. -/
inductive Refusal where
  /-- Raised by `exec`'s arm of a command that has no meaning yet. Safe: no claim is made. No arm raises it now. -/
  | notModelled (mnemonic : String)
  /-- Raised by the register port for an access that is not admitted: a width other than 8 bytes, a misaligned
  address, or an address outside the window (20_memory.md rule R76). Safe: no claim is made about such a run. -/
  | accessNotAdmitted (addr width : Nat)
  /-- Raised by the host agent at a branch to a label that does not stand exactly once in its program
  (30_encoding.md rule R99 gives it no meaning; log entry 10). Safe: no claim is made about such a run. -/
  | labelNotUnique (l : Nat)
  deriving DecidableEq, Repr

/-- The state after reset (10_state.md rule R50): every register and flag 0, no command in flight, no request
outstanding. The host agent has no program and no move is waiting (log entries 1 and 2). -/
def State.reset : State where
  ctrlIE := false
  busy := false
  done := false
  err := false
  ovr := false
  errcode := 0
  lastop := 0
  opa := 0
  opb := 0
  opc := 0
  opd := 0
  ope := 0
  res0 := 0
  res1 := 0
  inflight := none
  drawReq := none
  host := ⟨[], 0, [], []⟩
  events := []
  tick := 0

end Sys2Proof.Machine
end

