-- ==== Sys2Proof/Machine/Flags.lean ====
section
/-! DEFINITION. The engine's flags: the `CTRL` and `STATUS` words software reads, the interrupt level, and what a write to
`STATUS` clears (10_state.md rules R34 to R41, R48). The engine has no arithmetic flag (rule R45). -/

namespace Sys2Proof.Machine

/-- The word `CTRL` reads as: `IE` in bit 0, reserved bits 0 (10_state.md rule R34). -/
def State.ctrlWord (s : State) : Word := (BitVec.ofBool s.ctrlIE).setWidth 64

/-- The word `STATUS` reads as: `BUSY` in bit 0, `DONE` 1, `ERR` 2, `OVR` 3, `ERRCODE` [15:8], `LASTOP` [23:16], reserved bits
0 (10_state.md section 5). -/
def State.statusWord (s : State) : Word :=
  (BitVec.ofBool s.busy).setWidth 64 ||| (BitVec.ofBool s.done).setWidth 64 <<< 1 |||
    (BitVec.ofBool s.err).setWidth 64 <<< 2 ||| (BitVec.ofBool s.ovr).setWidth 64 <<< 3 |||
    s.errcode.setWidth 64 <<< 8 ||| s.lastop.setWidth 64 <<< 16

/-- The interrupt output: `IRQ = CTRL.IE and STATUS.DONE` (10_state.md rule R48). -/
def State.irq (s : State) : Bool := s.ctrlIE && s.done

/-- A write to `CTRL`: `IE <- v[0]` (10_state.md rule R34). -/
def State.setIE (s : State) (v : Word) : State := { s with ctrlIE := v.getLsbD 0 }

/-- A write to `STATUS`, write-1-to-clear on bits 1 and 3 (10_state.md rule R41). This is also the host's
acknowledgement of a completion, the nearest thing the engine has to a return (60_exceptions.md rule R218). -/
def State.acknowledge (s : State) (v : Word) : State :=
  { s with done := s.done && !v.getLsbD 1, ovr := s.ovr && !v.getLsbD 3 }

/-- A discarded write while busy sets the sticky `OVR` (10_state.md rule R38). -/
def State.raiseOvr (s : State) : State := { s with ovr := true }

end Sys2Proof.Machine
end

