-- ==== Sys2Proof/Machine/Params.lean ====
section
/-! DEFINITION. The spec's numbers: parameters (00_scope.md section 4), register offsets (10_state.md rule R32) and error
codes (60_exceptions.md rule R201). -/

namespace Sys2Proof.Machine

/-- `BLOCK_MAX`, the largest plaintext block (00_scope.md rule R10). -/
def blockMax : Word := 0x00000000FFFFFFFF

/-- `MODEXP_ITER`, the square-and-multiply steps (00_scope.md rule R11). -/
def modexpIter : Nat := 64

/-- `MR_TRIALS`, the drawn trials of `ISPRIME` (00_scope.md rule R12). -/
def mrTrials : Nat := 25

/-- `WINDOW_SIZE` in bytes (10_state.md rule R32). -/
def windowSize : Nat := 0x100

/-- `ID_VALUE` (10_state.md rule R33). -/
def idValue : Word := 0x5043525950540007

/-- `off(REG)` (10_state.md rule R32; 30_encoding.md rule R98). -/
def Reg.offset : Reg → Nat
  | .id     => 0x00
  | .ctrl   => 0x08
  | .status => 0x10
  | .cmd    => 0x18
  | .opa    => 0x20
  | .opb    => 0x28
  | .opc    => 0x30
  | .opd    => 0x38
  | .ope    => 0x40
  | .res0   => 0x48
  | .res1   => 0x50

/-- All named registers, by rising offset. -/
def Reg.all : List Reg := [.id, .ctrl, .status, .cmd, .opa, .opb, .opc, .opd, .ope, .res0, .res1]

/-- The register at an offset; `none` at a reserved offset (10_state.md rule R32; 20_memory.md rule R75). -/
def Reg.ofOffset (off : Nat) : Option Reg := Reg.all.find? (fun r => r.offset == off)

/-- The errors a command can raise (60_exceptions.md rule R201). -/
inductive ErrCode where
  | illegalCmd | modulusZero | witnessDomain | blockRange | primeTooSmall | keyRange | decode | entropyFail
  deriving DecidableEq, Repr

/-- The number `STATUS.ERRCODE` shows for an error; `NONE` is 0 (60_exceptions.md rule R201). -/
def ErrCode.code : ErrCode → Byte
  | .illegalCmd    => 0x01
  | .modulusZero   => 0x02
  | .witnessDomain => 0x03
  | .blockRange    => 0x04
  | .primeTooSmall => 0x05
  | .keyRange      => 0x06
  | .decode        => 0x07
  | .entropyFail   => 0x08

end Sys2Proof.Machine
end

