-- ==== Sys2Proof/Machine/Operands.lean ====
section
/-! DEFINITION. Reading and storing registers by name, and the entropy draws a command takes (00_scope.md rules R16 and
R20; 10_state.md rules R33 to R44). -/

namespace Sys2Proof.Machine

/-- `x[NAME]`: the read value of a register. Reading changes nothing (20_memory.md rule R72; 10_state.md rules R33
to R44); `CMD` holds no readable state and reads 0 (rule R42). -/
def State.x (s : State) : Reg → Word
  | .id     => idValue
  | .ctrl   => s.ctrlWord
  | .status => s.statusWord
  | .cmd    => 0
  | .opa    => s.opa
  | .opb    => s.opb
  | .opc    => s.opc
  | .opd    => s.opd
  | .ope    => s.ope
  | .res0   => s.res0
  | .res1   => s.res1

/-- A host write to an operand register: stored whole while idle, discarded with `OVR` while busy (10_state.md rules
R38, R43; 20_memory.md rule R73). The given state is the one with the register written. -/
def State.writeOperand (s : State) (written : State) : State := if s.busy then s.raiseOvr else written

/-- The entropy draws answered so far for the command in flight (10_state.md rule R46). -/
def State.answers (s : State) : List DrawAnswer :=
  match s.inflight with
  | some f => f.answers
  | none => []

/-- The port may give this answer to this request: `ok(v)` with `lo ≤ v ≤ hi`, or `fail` (00_scope.md rule R20). -/
def DrawAnswer.answers (a : DrawAnswer) (r : DrawRequest) : Bool :=
  match a with
  | .ok v => decide (r.lo ≤ v ∧ v ≤ r.hi)
  | .fail => true

end Sys2Proof.Machine
end

