-- ==== Sys2Proof/Machine/Ops.lean ====
section
/-! DEFINITION. The shared operations: the command lifecycle (60_exceptions.md rules R205 to R210), the entropy port
(10_state.md rule R47), reset (70_reset_and_hazards.md rule R240) and the register port (20_memory.md). -/

namespace Sys2Proof.Machine

/-- How a command's evaluation ends: with a result or an error (60_exceptions.md rule R207 `Outcome`), or short of an
entropy draw that the port has not answered yet (70_reset_and_hazards.md rule R255). -/
inductive CmdOutcome where
  | result (res0 res1 : Word)
  | error (e : ErrCode)
  | needs (r : DrawRequest)
  deriving DecidableEq, Repr

/-- Acceptance of a command word (60_exceptions.md rule R205). -/
def State.accept (s : State) (w : Word) : State :=
  { s with
    inflight := some ⟨w, []⟩
    busy := true
    done := false
    err := false
    errcode := 0
    lastop := w.setWidth 8 }

/-- The one atomic completion (60_exceptions.md rule R208): it writes the results and the error report, sets `DONE`,
clears `BUSY` and ends the command; nothing else changes. -/
def State.complete (s : State) (r0 r1 : Word) (err : Bool) (code : Byte) : State :=
  { s with
    res0 := r0
    res1 := r1
    err := err
    errcode := code
    done := true
    busy := false
    inflight := none }

/-- Completion with a result (60_exceptions.md rule R209). -/
def State.completeResult (s : State) (r0 r1 : Word) : State := s.complete r0 r1 false 0

/-- THE engine's exception: completion with an error (60_exceptions.md rule R210; 00_scope.md rule R19 `raise`). Zeros,
`ERR` and the code; it saves no other state and jumps nowhere (rules R204, R217). -/
def State.completeError (s : State) (e : ErrCode) : State := s.complete 0 0 true e.code

/-- The engine issues a request at the entropy port and stays busy (10_state.md rule R47; 20_memory.md rule R87). -/
def State.issueDraw (s : State) (r : DrawRequest) : State := { s with drawReq := some r }

/-- What a command's evaluation does to the state (60_exceptions.md rules R206 to R210). -/
def State.conclude (s : State) : CmdOutcome → State
  | .result r0 r1 => s.completeResult r0 r1
  | .error e => s.completeError e
  | .needs r => s.issueDraw r

/-- An answer of the entropy port: taken once by the outstanding request, in order (20_memory.md rule R87). With no
request outstanding it is late and ignored (70_reset_and_hazards.md rule R240); a value outside the request's range is
no answer at all (00_scope.md rule R20; log entry 4). -/
def State.deliver (s : State) (a : DrawAnswer) : State :=
  match s.inflight, s.drawReq with
  | some f, some r =>
    if a.answers r then
      { s with inflight := some { f with answers := f.answers ++ [a] }, drawReq := none }
    else s
  | _, _ => s

/-- The reset input: every register and field takes its reset value, the command in flight and any entropy request
are dropped (70_reset_and_hazards.md rule R240). The host agent and the surroundings' moves are not the engine's. -/
def State.resetEngine (s : State) : State :=
  { State.reset with host := s.host, events := s.events, tick := s.tick }

/-- An admitted read (20_memory.md rules R72, R75): the register's value, 0 at a reserved offset. -/
def State.readWindow (s : State) (off : Nat) : Word :=
  match Reg.ofOffset off with
  | some r => s.x r
  | none => 0

/-- An admitted write to a named register (20_memory.md rule R73). -/
def State.writeReg (s : State) (r : Reg) (v : Word) : State :=
  match r with
  | .id | .res0 | .res1 => s
  | .ctrl => s.setIE v
  | .status => s.acknowledge v
  | .cmd => if s.busy then s.raiseOvr else s.accept v
  | .opa => s.writeOperand { s with opa := v }
  | .opb => s.writeOperand { s with opb := v }
  | .opc => s.writeOperand { s with opc := v }
  | .opd => s.writeOperand { s with opd := v }
  | .ope => s.writeOperand { s with ope := v }

/-- An admitted write by offset; a reserved offset ignores it (20_memory.md rules R73, R75). -/
def State.writeWindow (s : State) (off : Nat) (v : Word) : State :=
  match Reg.ofOffset off with
  | some r => s.writeReg r v
  | none => s

/-- The byte lane `i` of the register at an offset (20_memory.md rule R74). No admitted access observes it alone. -/
def State.readLane (s : State) (off i : Nat) : Byte := (s.readWindow off).extractLsb' (8 * i) 8

/-- The window offset of an admitted access: eight bytes wide, aligned, inside the window (20_memory.md rule R71). -/
def admittedOffset (addr n : Nat) : Option Nat :=
  if n = 8 ∧ Config.baseAddr ≤ addr ∧ (addr - Config.baseAddr) % 8 = 0 ∧ addr - Config.baseAddr < windowSize then
    some (addr - Config.baseAddr)
  else none

/-- `MemRead(addr, n)`: the value, or `none` where the access is refused (20_memory.md rules R71, R72, R76). -/
def State.memRead (s : State) (addr n : Nat) : Option Word := (admittedOffset addr n).map s.readWindow

/-- `MemWrite(addr, n, v)`: the state after it, or `none` where it is refused (20_memory.md rules R71, R73, R76). -/
def State.memWrite (s : State) (addr n : Nat) (v : Word) : Option State :=
  (admittedOffset addr n).map (fun off => s.writeWindow off v)

/-- An access of a requester other than the host program. A read changes no state (20_memory.md rule R72); what it
returns is the requester's (log entry 12). An access that is not admitted is refused (rule R76). -/
def State.busAccess (s : State) : Access → Host.Outcome State Fault Refusal
  | .memRead addr n =>
    match s.memRead addr n with
    | some _ => .next s
    | none => .refused (.accessNotAdmitted addr n)
  | .memWrite addr n v =>
    match s.memWrite addr n v with
    | some t => .next t
    | none => .refused (.accessNotAdmitted addr n)

/-- An illegal command word reads no operand and draws nothing; it completes with `ILLEGAL_CMD`
(60_exceptions.md rule R203). -/
def State.completeIllegal (s : State) : State := s.completeError .illegalCmd

end Sys2Proof.Machine
end

