-- ==== Sys2Proof/Machine/ModExp.lean ====
section
/-! DEFINITION. The reduction unit and the ModExp engine: `MULMOD`, `MODEXP` (40_modexp.md). -/

namespace Sys2Proof.Machine

/-- `MulMod(a, b, m)` for `m ≥ 1`: the exact 128-bit product reduced modulo m (40_modexp.md rule R110). -/
def mulMod (a b m : Word) : Word :=
  let p : Wide := a.setWidth 128 * b.setWidth 128
  (p % m.setWidth 128).setWidth 64

/-- Case 4 of 40_modexp.md rule R117 for the exponent bits below `j`, highest first: square, then multiply where the bit is set. -/
def modExpLoop (b e m : Word) : Nat → Word → Word
  | 0, acc => acc
  | j + 1, acc =>
    let sq := mulMod acc acc m
    modExpLoop b e m j (if e.getLsbD j then mulMod sq b m else sq)

/-- `ModExp(b0, e, m)` for `m ≥ 1`: the source's four cases, earlier ones first (40_modexp.md rule R117). -/
def modExp (b0 e m : Word) : Word :=
  let b := b0 % m
  if e = 0 then 1 % m
  else if b = 0 ∨ b = m ∨ m = 1 then 0
  else if b = 1 ∨ m = 2 then b % m
  else modExpLoop b e m modexpIter 1

/-- The function of `MULMOD` (40_modexp.md rule R113). -/
def mulmodOutcome (a b m : Word) : CmdOutcome :=
  if m = 0 then .error .modulusZero else .result (mulMod a b m) 0

/-- The function of `MODEXP` (40_modexp.md rule R116). -/
def modexpOutcome (b e m : Word) : CmdOutcome :=
  if m = 0 then .error .modulusZero else .result (modExp b e m) 0

/-- `MULMOD`: `OPA` = a, `OPB` = b, `OPC` = modulus (40_modexp.md rule R113; 30_encoding.md rule R93). -/
def execMulmod (s : State) : Host.Outcome State Fault Refusal :=
  .next (s.conclude (mulmodOutcome (s.x .opa) (s.x .opb) (s.x .opc)))

/-- `MODEXP`: `OPA` = base, `OPB` = exponent, `OPC` = modulus (40_modexp.md rule R116; 30_encoding.md rule R93). -/
def execModexp (s : State) : Host.Outcome State Fault Refusal :=
  .next (s.conclude (modexpOutcome (s.x .opa) (s.x .opb) (s.x .opc)))

end Sys2Proof.Machine
end

