-- ==== Sys2Proof/Machine/ElGamal.lean ====
section
/-! DEFINITION. The ElGamal block unit: `ENC`, `ENCR`, `DEC` (42_elgamal.md). -/

namespace Sys2Proof.Machine

/-- `Encrypt(p, g, y, blk, r)`: the pair c1, c2 (42_elgamal.md rule R172). -/
def encrypt (p g y blk r : Word) : Word × Word :=
  let c1 := modExp g r p
  let s := modExp y r p
  (c1, mulMod blk s p)

/-- The checks of `ENC` and `ENCR`, in their order (42_elgamal.md rules R171, R174; 60_exceptions.md rule R211). -/
def encryptCheck (p blk : Word) : Option ErrCode :=
  if p ≤ blockMax then some .primeTooSmall
  else if blk >>> 32 ≠ 0 then some .blockRange
  else none

/-- The draw of `ENCR`: `Draw(1, p - 2)` (42_elgamal.md rule R175). -/
def exponentDraw (p : Word) : DrawRequest := ⟨1, p - 2⟩

/-- The function of `ENC` (42_elgamal.md rule R172). -/
def encOutcome (p g y blk r : Word) : CmdOutcome :=
  match encryptCheck p blk with
  | some e => .error e
  | none => let c := encrypt p g y blk r; .result c.1 c.2

/-- The function of `ENCR`: the checks come before its one draw (42_elgamal.md rule R175). -/
def encrOutcome (p g y blk : Word) (answers : List DrawAnswer) : CmdOutcome :=
  match encryptCheck p blk with
  | some e => .error e
  | none =>
    match answers with
    | [] => .needs (exponentDraw p)
    | .fail :: _ => .error .entropyFail
    | .ok r :: _ => let c := encrypt p g y blk r; .result c.1 c.2

/-- The block `DEC` computes, before it is checked (42_elgamal.md rule R178). -/
def decrypt (p xk c1 c2 : Word) : Word := mulMod (modExp c1 (p - xk - 1) p) (c2 % p) p

/-- The function of `DEC` (42_elgamal.md rules R178, R179). -/
def decOutcome (p xk c1 c2 : Word) : CmdOutcome :=
  if p = 0 ∨ xk > p - 1 then .error .keyRange
  else
    let m := decrypt p xk c1 c2
    if m > blockMax then .error .decode else .result m 0

/-- `ENC`: `OPA` = p, `OPB` = g, `OPC` = y, `OPD` = block, `OPE` = r (42_elgamal.md rule R172; 30_encoding.md rule R93). -/
def execEnc (s : State) : Host.Outcome State Fault Refusal :=
  .next (s.conclude (encOutcome (s.x .opa) (s.x .opb) (s.x .opc) (s.x .opd) (s.x .ope)))

/-- `ENCR`: `OPA` = p, `OPB` = g, `OPC` = y, `OPD` = block; `OPE` is not read (42_elgamal.md rule R175; 30_encoding.md rule R93). -/
def execEncr (s : State) : Host.Outcome State Fault Refusal :=
  .next (s.conclude (encrOutcome (s.x .opa) (s.x .opb) (s.x .opc) (s.x .opd) s.answers))

/-- `DEC`: `OPA` = p, `OPC` = private exponent, `OPD` = c1, `OPE` = c2; `OPB` is not read (42_elgamal.md rule R178;
30_encoding.md rule R93). -/
def execDec (s : State) : Host.Outcome State Fault Refusal :=
  .next (s.conclude (decOutcome (s.x .opa) (s.x .opc) (s.x .opd) (s.x .ope)))

end Sys2Proof.Machine
end

