-- ==== Sys2Proof/Machine/Primality.lean ====
section
/-! DEFINITION. The Miller-Rabin witness pipeline: `WITNESS`, `MRTEST`, `ISPRIME` (41_primality.md). -/

namespace Sys2Proof.Machine

/-- The `while` of 41_primality.md rule R141: halve `q` and count, until `q` is odd. The first argument bounds the
steps; a 64-bit value other than 0 has fewer than 64 trailing zeros. -/
def oddPart : Nat → Word → Nat → Word × Nat
  | 0, q, k => (q, k)
  | fuel + 1, q, k => if q.getLsbD 0 then (q, k) else oddPart fuel (q >>> 1) (k + 1)

/-- The `for` of 41_primality.md rule R141 with the given number of steps left: 0 as soon as `x == n - 1`, else 1. -/
def squaringLoop (n : Word) : Nat → Word → Word
  | 0, _ => 1
  | k + 1, x => if x = n - 1 then 0 else squaringLoop n k (mulMod x x n)

/-- `Witness(n, v)` for odd `n ≥ 3` (41_primality.md rule R141). -/
def witness (n v : Word) : Word :=
  let (q, k) := oddPart 64 (n - 1) 0
  let x := modExp v q n
  if x = 1 then 0 else squaringLoop n k x

/-- n is outside the domain of the three commands (41_primality.md rule R140). -/
def outsideDomain (n : Word) : Bool := decide (n < 3) || !n.getLsbD 0

/-- The draw `MRDraws` asks for: `Draw(2, n - 2)` (41_primality.md rule R145). -/
def witnessDraw (n : Word) : DrawRequest := ⟨2, n - 2⟩

/-- The loop of `MRDraws(n, t)` over the answers so far, `t` draws to go: stop at the first witness, raise at the first
`fail`, ask for a draw when the answers run out (41_primality.md rules R145, R146, R148). -/
def mrDrawLoop (n : Word) : List DrawAnswer → Nat → CmdOutcome
  | [], t => if t = 0 then .result 0 0 else .needs (witnessDraw n)
  | a :: rest, t =>
    if t = 0 then .result 0 0
    else
      match a with
      | .fail => .error .entropyFail
      | .ok v => if witness n v = 1 then .result 1 0 else mrDrawLoop n rest (t - 1)

/-- `MRDraws(n, t)`: no draw for n = 3, whose range is empty (41_primality.md rules R145, R147). -/
def mrDraws (n : Word) (t : Nat) (answers : List DrawAnswer) : CmdOutcome :=
  if n = 3 then .result 0 0 else mrDrawLoop n answers t

/-- The function of `WITNESS` (41_primality.md rule R142). -/
def witnessOutcome (n v : Word) : CmdOutcome :=
  if outsideDomain n then .error .witnessDomain else .result (witness n v) 0

/-- The function of `MRTEST` (41_primality.md rule R145). -/
def mrtestOutcome (n t : Word) (answers : List DrawAnswer) : CmdOutcome :=
  if outsideDomain n then .error .witnessDomain else mrDraws n t.toNat answers

/-- The function of `ISPRIME`: `1 - MRDraws(n, MR_TRIALS)` (41_primality.md rule R150). -/
def isprimeOutcome (n : Word) (answers : List DrawAnswer) : CmdOutcome :=
  if outsideDomain n then .error .witnessDomain
  else
    match mrDraws n mrTrials answers with
    | .result r _ => .result (1 - r) 0
    | .error e => .error e
    | .needs r => .needs r

/-- `WITNESS`: `OPA` = n, `OPB` = val (41_primality.md rule R142; 30_encoding.md rule R93). -/
def execWitness (s : State) : Host.Outcome State Fault Refusal :=
  .next (s.conclude (witnessOutcome (s.x .opa) (s.x .opb)))

/-- `MRTEST`: `OPA` = n, `OPB` = witness count (41_primality.md rule R145; 30_encoding.md rule R93). -/
def execMrtest (s : State) : Host.Outcome State Fault Refusal :=
  .next (s.conclude (mrtestOutcome (s.x .opa) (s.x .opb) s.answers))

/-- `ISPRIME`: `OPA` = n (41_primality.md rule R150; 30_encoding.md rule R93). -/
def execIsprime (s : State) : Host.Outcome State Fault Refusal :=
  .next (s.conclude (isprimeOutcome (s.x .opa) s.answers))

end Sys2Proof.Machine
end

