-- ==== Sys2Proof/Machine/Dispatch.lean ====
section
/-! DEFINITION. One arm per command: what the engine agent does when it executes it (60_exceptions.md rule R206). -/

namespace Sys2Proof.Machine

def exec (i : Instr) (s : State) : Host.Outcome State Fault Refusal :=
  match i with
  | .modexp => Sys2Proof.Machine.execModexp s
  | .mulmod => Sys2Proof.Machine.execMulmod s
  | .witness => Sys2Proof.Machine.execWitness s
  | .mrtest => Sys2Proof.Machine.execMrtest s
  | .isprime => Sys2Proof.Machine.execIsprime s
  | .enc => Sys2Proof.Machine.execEnc s
  | .encr => Sys2Proof.Machine.execEncr s
  | .dec => Sys2Proof.Machine.execDec s

end Sys2Proof.Machine
end

