-- ==== Sys2Proof/WellFormed.lean ====
section
/-! DEFINITION. Well-formedness: of instructions (nothing to check), of command words (30_encoding.md rule R91) and
of host programs (30_encoding.md rule R99). -/

namespace Sys2Proof

/-- A command has no operand, immediate or mode field (30_encoding.md rules R90, R95), so every `Instr` is well formed. -/
def Instr.wf : Instr → Bool
  | .modexp | .mulmod | .witness | .mrtest | .isprime | .enc | .encr | .dec => true

/-- `legal(w)`, written as 30_encoding.md rule R91 writes it, apart from the decoder. -/
def legalWord (w : Word) : Bool :=
  (w >>> 8 == 0) && (w.setWidth 8 ∈ ([0x01, 0x02, 0x03, 0x04, 0x05, 0x06, 0x07, 0x08] : List Byte))

end Sys2Proof

namespace Sys2Proof.Machine

/-- The labels a program declares, in order. -/
def programLabels : List HostLine → List Nat
  | [] => []
  | .label l :: rest => l :: programLabels rest
  | _ :: rest => programLabels rest

/-- The labels a program branches to. -/
def programTargets : List HostLine → List Nat
  | [] => []
  | .bnz _ l :: rest => l :: programTargets rest
  | .b l :: rest => l :: programTargets rest
  | _ :: rest => programTargets rest

/-- No label stands twice (30_encoding.md rule R99: a branch continues "at label L"). -/
def labelsDistinct (p : List HostLine) : Bool := decide (programLabels p).Nodup

/-- Every branch names a label of the program (30_encoding.md rule R99). -/
def targetsDeclared (p : List HostLine) : Bool := (programTargets p).all (fun l => l ∈ programLabels p)

/-- A well-formed host program: its branches have one meaning (log entry 10). -/
def programWf (p : List HostLine) : Bool := labelsDistinct p && targetsDeclared p

end Sys2Proof.Machine
end

