-- ==== Sys2Proof/Machine/HostProgram.lean ====
section
/-! DEFINITION. The host agent: host variables, host expressions, host program lines and pseudo-instructions
(30_encoding.md rules R98 to R100). -/

namespace Sys2Proof.Machine

/-- A host variable's value; an unlisted one is 0 (30_encoding.md rule R99). -/
def varGet : List (Nat × Word) → Nat → Word
  | [], _ => 0
  | (k, w) :: rest, t => if k = t then w else varGet rest t

/-- Assign a host variable, keeping the list in its one form: names rising, no value 0. -/
def varSet : List (Nat × Word) → Nat → Word → List (Nat × Word)
  | [], t, v => if v = 0#64 then [] else [(t, v)]
  | (k, w) :: rest, t, v =>
    if t < k then (if v = 0#64 then (k, w) :: rest else (t, v) :: (k, w) :: rest)
    else if t = k then (if v = 0#64 then rest else (t, v) :: rest)
    else (k, w) :: varSet rest t v

/-- The one form of a variable list: names strictly rising, no value 0. -/
def varsWf : List (Nat × Word) → Bool
  | [] => true
  | [(_, w)] => w != 0#64
  | (k, w) :: (k', w') :: rest => w != 0#64 && decide (k < k') && varsWf ((k', w') :: rest)

/-- The value of a host expression, a natural number (00_scope.md rules R14, R15; 30_encoding.md rule R99). Where those
rules state no value it is `Config.openValue` of all the operands (log entry 9); `&` is the bitwise and of program P3
(log entry 8). DESIGN CHOICE (log entry 9): R14 states no value of `a || b` where b's value does not fit its width n, and the
whole value is then free. -/
def HostExpr.eval (vars : List (Nat × Word)) : HostExpr → Nat
  | .lit n => n
  | .var t => (varGet vars t).toNat
  | .bit e i => e.eval vars / 2 ^ i.eval vars % 2
  | .slice e hi lo =>
    let h := hi.eval vars
    let l := lo.eval vars
    let x := e.eval vars
    if l ≤ h then x / 2 ^ l % 2 ^ (h - l + 1) else Config.openValue .slice [x, h, l]
  | .concat a n b =>
    let x := a.eval vars
    let y := b.eval vars
    if y < 2 ^ n then x * 2 ^ n + y else Config.openValue .concat [x, n, y]
  | .add a b => a.eval vars + b.eval vars
  | .sub a b =>
    let x := a.eval vars
    let y := b.eval vars
    if y ≤ x then x - y else Config.openValue .sub [x, y]
  | .mul a b => a.eval vars * b.eval vars
  | .mod a b =>
    let x := a.eval vars
    let y := b.eval vars
    if y = 0 then Config.openValue .mod [x, y] else x % y
  | .div a b =>
    let x := a.eval vars
    let y := b.eval vars
    if y = 0 then Config.openValue .div [x, y] else x / y
  | .pow a b => a.eval vars ^ b.eval vars
  | .shr a b => a.eval vars / 2 ^ b.eval vars
  | .zext n e =>
    let x := e.eval vars
    if x < 2 ^ n then x else Config.openValue .zext [n, x]
  | .trunc n e => e.eval vars % 2 ^ n
  | .and a b => Nat.land (a.eval vars) (b.eval vars)

/-- A host expression as a 64-bit value, taken mod 2^64 (30_encoding.md rule R99). -/
def HostExpr.word (vars : List (Nat × Word)) (e : HostExpr) : Word := BitVec.ofNat 64 (e.eval vars)

/-- The host agent goes on at the next line. -/
def State.nextLine (s : State) : State := { s with host := { s.host with line := s.host.line + 1 } }

/-- The host agent goes on at a given line. -/
def State.gotoLine (s : State) (n : Nat) : State := { s with host := { s.host with line := n } }

/-- Assign a host variable. -/
def State.setVar (s : State) (t : Nat) (v : Word) : State :=
  { s with host := { s.host with vars := varSet s.host.vars t v } }

/-- Record one bus transaction of the host program. -/
def State.record (s : State) (b : BusTransfer) : State :=
  { s with host := { s.host with trace := s.host.trace ++ [b] } }

/-- Where a label stands, when it stands exactly once. -/
def labelLine (p : List HostLine) (l : Nat) : Option Nat :=
  if (programLabels p).count l = 1 then p.findIdx? (fun x => x == .label l) else none

/-- Continue at a label (30_encoding.md rule R99); refused where the program does not declare it exactly once. -/
def State.branch (s : State) (l : Nat) : Host.Outcome State Fault Refusal :=
  match labelLine s.host.prog l with
  | some n => .next (s.gotoLine n)
  | none => .refused (.labelNotUnique l)

/-- One line of the host program (30_encoding.md rules R98, R99). A `wr` or `rd` is the admitted 8-byte access at
`BASE_ADDR + off(REG)`, so it acts on the window directly. -/
def execLine (l : HostLine) (s : State) : Host.Outcome State Fault Refusal :=
  match l with
  | .wr r e =>
    let v := e.word s.host.vars
    .next (((s.writeReg r v).record (.w r.offset v)).nextLine)
  | .rd r t =>
    let v := s.x r
    .next (((s.setVar t v).record (.r r.offset v)).nextLine)
  | .label _ => .next s.nextLine
  | .set t e => .next ((s.setVar t (e.word s.host.vars)).nextLine)
  | .bnz e l => if e.eval s.host.vars = 0 then .next s.nextLine else s.branch l
  | .b l => s.branch l
  | .halt => .next s

/-- The host agent's turn: its next line; after the last line, as at `halt`, it issues nothing (log entry 11). -/
def hostTurn (s : State) : Host.Outcome State Fault Refusal :=
  match s.host.prog[s.host.line]? with
  | some l => execLine l s
  | none => .next s

/-- The run of the host program has ended (70_reset_and_hazards.md rule R257): its next line is `halt`. -/
def State.halted (s : State) : Bool := s.host.prog[s.host.line]? == some .halt

/-- The values the host program's reads returned, oldest first (70_reset_and_hazards.md rule R257). -/
def readValues : List BusTransfer → List Word
  | [] => []
  | .w _ _ :: rest => readValues rest
  | .r _ v :: rest => v :: readValues rest

/-- The observation of a run (70_reset_and_hazards.md rule R257): the values its reads returned, and the registers. -/
def State.observation (s : State) : List Word × List Word := (readValues s.host.trace, Reg.all.map s.x)

/-- `cmd MNEMONIC` (30_encoding.md rule R100). -/
def pseudoCmd (i : Instr) : List HostLine := [.wr .cmd (.lit (encode i).toNat)]

/-- `wait`, with the fresh label and variable it uses (30_encoding.md rule R100). -/
def pseudoWait (l t : Nat) : List HostLine := [.label l, .rd .status t, .bnz (.bit (.var t) (.lit 0)) l]

/-- `ack` (30_encoding.md rule R100). -/
def pseudoAck : List HostLine := [.wr .status (.lit 0x2)]

/-- `clrovr` (30_encoding.md rule R100). -/
def pseudoClrovr : List HostLine := [.wr .status (.lit 0x8)]

/-- `ldkey p, g, v` (30_encoding.md rule R100). -/
def pseudoLdkey (p g v : HostExpr) : List HostLine := [.wr .opa p, .wr .opb g, .wr .opc v]

end Sys2Proof.Machine
end

