-- ==== Sys2Proof/Machine/Events.lean ====
section
/-! DEFINITION. The events of the one ordered stream (20_memory.md rule R81) and what each does. -/

namespace Sys2Proof.Machine

/-- The engine agent's turn (60_exceptions.md rule R206). Idle, it does nothing. With an entropy request outstanding it
waits (70_reset_and_hazards.md rule R255). Otherwise it executes the command in flight, or completes an illegal word
(60_exceptions.md rule R203). -/
def engineTurn (s : State) : Host.Outcome State Fault Refusal :=
  match s.inflight, s.drawReq with
  | none, _ => .next s
  | some _, some _ => .next s
  | some f, none =>
    match decode f.word with
    | .ok i => exec i s
    | .error _ => .next s.completeIllegal

/-- One event. Each sees the state every earlier one left (20_memory.md rule R81). -/
def perform (e : Event) (s : State) : Host.Outcome State Fault Refusal :=
  match e with
  | .engine => engineTurn s
  | .host => hostTurn s
  | .access a => s.busAccess a
  | .entropy a => .next (s.deliver a)
  | .reset => .next s.resetEngine

/-- The command word of an opcode-table row's bits: the bits above `nbits` are 0. -/
def tableWord (nbits w : Nat) : Word := BitVec.ofNat 64 (w % 2 ^ nbits)

/-- The state in which the word is the command in flight and nothing is between it and the engine agent's next turn:
what an accepted `CMD` write leaves (60_exceptions.md rule R205), with no entropy request outstanding (log entry 1). -/
def State.withCommand (s : State) (w : Word) : State :=
  { s.accept w with drawReq := none, events := .engine :: s.events }

end Sys2Proof.Machine
end

