-- ==== Sys2Proof/Machine/Step.lean ====
section
/-! DEFINITION. One step of the machine: the next event of the stream. -/

namespace Sys2Proof.Machine

/-- One event of the stream of 20_memory.md rule R81: the oldest waiting move, or a free one (log entry 2). -/
def step (s : State) : Host.Outcome State Fault Refusal :=
  match s.events with
  | e :: rest => perform e { s with events := rest }
  | [] => perform (Config.freeEvent s.tick) { s with tick := s.tick + 1 }

/-- The word accepted as the command in flight, and the engine agent to move next: the very next step executes it
(60_exceptions.md rules R205, R206; log entry 1). -/
def State.withFetchWord (s : State) (nbits w : Nat) : State := s.withCommand (tableWord nbits w)

end Sys2Proof.Machine
end

