-- ==== Sys2Proof/Safety.lean ====
section
/-! DEFINITION. The vocabulary of claims: the machine's invariant, what a completion and an acceptance look like field
by field, the event a step takes, runs, and the arithmetic the spec states its results in. Everything here is written
from the spec's rules, not from the operations of Machine/. -/

namespace Sys2Proof.Machine

/-! ### Events and runs -/

/-- The event the next step takes. -/
def State.nextEvent (s : State) : Event :=
  match s.events with
  | e :: _ => e
  | [] => Config.freeEvent s.tick

/-- The state in which that event happens: the move is taken from where it waited. -/
def State.taken (s : State) : State :=
  match s.events with
  | _ :: rest => { s with events := rest }
  | [] => { s with tick := s.tick + 1 }

/-- `k` steps from `s` lead to `t`. -/
def Runs (k : Nat) (s t : State) : Prop := Host.Core.run Sys2Proof.core k s = .next t

/-- Every state met in the first `k` steps from `s`, the last one left out, has the property. -/
def Along (k : Nat) (s : State) (P : State → Prop) : Prop := ∀ j u, j < k → Runs j s u → P u

/-- The next event is a write of `v` to register `r` that reaches the port: by the host program, or by an admitted
access of another requester (20_memory.md rule R73; 30_encoding.md rule R98). -/
def NextWrites (s : State) (r : Reg) (v : Word) : Prop :=
  (s.nextEvent = .host ∧ ∃ e, s.host.prog[s.host.line]? = some (.wr r e) ∧ v = e.word s.host.vars) ∨
  s.nextEvent = .access (.memWrite (Config.baseAddr + r.offset) 8 v)

/-- The next event ends the command in flight: the engine's turn, after which there is none (60_exceptions.md rule R208). -/
def Completes (s t : State) : Prop := s.nextEvent = .engine ∧ s.inflight ≠ none ∧ t.inflight = none

/-- The next event is the acceptance of `w` (60_exceptions.md rule R205). -/
def Accepts (s : State) (w : Word) : Prop := NextWrites s .cmd w ∧ s.busy = false

/-- The entropy port answers every request between two turns of the engine agent: the moves that a command which draws
these answers needs (70_reset_and_hazards.md rule R255). -/
def drawSchedule : List DrawAnswer → List Event
  | [] => [.engine]
  | a :: rest => .engine :: .entropy a :: drawSchedule rest

/-! ### What an event leaves -/

/-- The operand registers and `CTRL`, which no completion and no acceptance touches, are the same. -/
structure SameOperands (s t : State) : Prop where
  ctrlIE : t.ctrlIE = s.ctrlIE
  opa : t.opa = s.opa
  opb : t.opb = s.opb
  opc : t.opc = s.opc
  opd : t.opd = s.opd
  ope : t.ope = s.ope

/-- The agents around the engine are the same. -/
structure SameAgents (s t : State) : Prop where
  host : t.host = s.host
  events : t.events = s.events
  tick : t.tick = s.tick

/-- `t` is `s` after a completion that wrote these results and this error report (60_exceptions.md rule R208), field by
field; everything else is unchanged. -/
structure Completed (s t : State) (r0 r1 : Word) (err : Bool) (code : Byte) : Prop where
  res0 : t.res0 = r0
  res1 : t.res1 = r1
  err : t.err = err
  errcode : t.errcode = code
  done : t.done = true
  busy : t.busy = false
  inflight : t.inflight = none
  drawReq : t.drawReq = s.drawReq
  ovr : t.ovr = s.ovr
  lastop : t.lastop = s.lastop
  operands : SameOperands s t
  agents : SameAgents s t

/-- Completion with a result (60_exceptions.md rule R209). -/
abbrev Returned (s t : State) (r0 r1 : Word) : Prop := Completed s t r0 r1 false 0x00

/-- Completion with an error code (60_exceptions.md rule R210). -/
abbrev Raised (s t : State) (code : Byte) : Prop := Completed s t 0 0 true code

/-- `t` is `s` with a draw of the given range requested and nothing else changed: the command waits. -/
structure Requested (s t : State) (lo hi : Word) : Prop where
  drawReq : t.drawReq = some ⟨lo, hi⟩
  inflight : t.inflight = s.inflight
  busy : t.busy = s.busy
  done : t.done = s.done
  err : t.err = s.err
  errcode : t.errcode = s.errcode
  ovr : t.ovr = s.ovr
  lastop : t.lastop = s.lastop
  res0 : t.res0 = s.res0
  res1 : t.res1 = s.res1
  operands : SameOperands s t
  agents : SameAgents s t

/-- `t` is `s` after the acceptance of `w` (60_exceptions.md rule R205), as far as the engine goes. -/
structure Accepted (s t : State) (w : Word) : Prop where
  inflight : t.inflight = some ⟨w, []⟩
  busy : t.busy = true
  done : t.done = false
  err : t.err = false
  errcode : t.errcode = 0
  lastop : t.lastop = w.extractLsb' 0 8
  res0 : t.res0 = s.res0
  res1 : t.res1 = s.res1
  ovr : t.ovr = s.ovr
  drawReq : t.drawReq = s.drawReq
  operands : SameOperands s t

/-- The engine's own state is the same but for `STATUS.OVR`, which `t` has as given. -/
structure SameButOvr (s t : State) (ovr : Bool) : Prop where
  ovr : t.ovr = ovr
  inflight : t.inflight = s.inflight
  drawReq : t.drawReq = s.drawReq
  busy : t.busy = s.busy
  done : t.done = s.done
  err : t.err = s.err
  errcode : t.errcode = s.errcode
  lastop : t.lastop = s.lastop
  res0 : t.res0 = s.res0
  res1 : t.res1 = s.res1
  operands : SameOperands s t

/-- The engine's own state is the same. -/
abbrev SameEngine (s t : State) : Prop := SameButOvr s t s.ovr

/-! ### Arithmetic, on natural numbers -/

/-- The domain of the witness commands (41_primality.md rule R140). -/
abbrev InDomain (n : Nat) : Prop := 3 ≤ n ∧ n % 2 = 1

/-- The source's definition of a witness (41_primality.md rule R141): with `n - 1 = 2^k * q`, q odd,
`v^q mod n != 1` and `v^(2^i * q) mod n != n - 1` for every `i` below `k`. -/
def IsWitness (n v : Nat) : Prop :=
  ∃ k q, n - 1 = 2 ^ k * q ∧ q % 2 = 1 ∧ v ^ q % n ≠ 1 ∧ ∀ i < k, v ^ (2 ^ i * q) % n ≠ n - 1

/-- None of the drawn values is a witness for n. -/
def NoWitnessAmong (n : Nat) (drawn : List Word) : Prop := ∀ v ∈ drawn, ¬ IsWitness n v.toNat

/-! ### The invariant -/

/-- The range a command in flight draws from, on the operands it reads; `none` where it draws nothing
(10_state.md rule R47; 41_primality.md rules R145, R147, R150; 42_elgamal.md rule R175). -/
def drawRange (i : Instr) (s : State) : Option DrawRequest :=
  match i with
  | .mrtest | .isprime =>
    if 3 < s.opa.toNat ∧ s.opa.toNat % 2 = 1 then some ⟨2, s.opa - 2⟩ else none
  | .encr =>
    if 2 ^ 32 ≤ s.opa.toNat ∧ s.opd.toNat < 2 ^ 32 then some ⟨1, s.opa - 2⟩ else none
  | .modexp | .mulmod | .witness | .enc | .dec => none

/-- The range the command word in flight draws from. -/
def wordDrawRange (w : Word) (s : State) : Option DrawRequest :=
  match decode w with
  | .ok i => drawRange i s
  | .error _ => none

/-- What holds in every reachable state: 10_state.md rule R51, and with it what rules R39, R40, R46, R47 and R52 say of
the codes, the command in flight and the entropy port. -/
structure State.Inv (s : State) : Prop where
  /-- The command word is present exactly when `busy` (rule R52). -/
  inflight_iff_busy : s.inflight.isSome = s.busy
  /-- `BUSY` and `DONE` are not both 1 (rule R51). -/
  not_busy_and_done : ¬ (s.busy = true ∧ s.done = true)
  /-- `ERR = 0` exactly when `ERRCODE = 0` (rule R51). -/
  err_iff_code : s.err = false ↔ s.errcode = 0
  /-- `ERR = 1` implies `RES0 = 0` and `RES1 = 0` (rule R51). -/
  err_zero_results : s.err = true → s.res0 = 0 ∧ s.res1 = 0
  /-- The legal codes are 0x00 to 0x08 (rule R39). -/
  code_legal : s.errcode.toNat ≤ 8
  /-- While a command runs the report of the last one is cleared (rules R37, R39). -/
  busy_no_err : s.busy = true → s.err = false
  /-- `LASTOP` is the low byte of the command word in flight (rule R40). -/
  lastop_in_flight : ∀ f, s.inflight = some f → s.lastop = f.word.extractLsb' 0 8
  /-- A request is outstanding only for a drawing command in flight, with that command's range (rule R47). -/
  request_range : ∀ r, s.drawReq = some r → ∃ f, s.inflight = some f ∧ wordDrawRange f.word s = some r
  /-- Every answer taken is one the port may give to a request of the command in flight (00_scope.md rule R20). -/
  answers_in_range : ∀ f, s.inflight = some f →
    ∀ a ∈ f.answers, ∃ r, wordDrawRange f.word s = some r ∧ a.answers r = true
  /-- The host variables are in their one form. -/
  vars_wf : varsWf s.host.vars = true

end Sys2Proof.Machine
end

