-- ==== Sys2Proof/Certificates/Slice0/Obligations.lean ====
section
/-! DEFINITION. The statements for the provers. -/

open Sys2Proof Sys2Proof.Machine

/-! ### Reset -/

/-- 10_state.md rule R50: the reset value of every piece of state. -/
def Obligations.ResetLeavesDocumentedValues : Prop :=
  (∀ off, off % 8 = 0 → off < 0x100 →
    State.reset.readWindow off = if off = 0 then 0x5043525950540007 else 0) ∧
  State.reset.ctrlIE = false ∧
  State.reset.busy = false ∧ State.reset.done = false ∧ State.reset.err = false ∧ State.reset.ovr = false ∧
  State.reset.errcode = 0 ∧ State.reset.lastop = 0 ∧
  State.reset.opa = 0 ∧ State.reset.opb = 0 ∧ State.reset.opc = 0 ∧ State.reset.opd = 0 ∧ State.reset.ope = 0 ∧
  State.reset.res0 = 0 ∧ State.reset.res1 = 0 ∧
  State.reset.irq = false ∧ State.reset.inflight = none ∧ State.reset.drawReq = none

/-- The machine's invariant (10_state.md section 11; rule R51 is an inference of the spec's own) holds at reset. -/
def Obligations.ResetMeetsInvariant : Prop := State.Inv State.reset

/-- 70_reset_and_hazards.md rule R240: reset from any state, whatever is in flight, and a late entropy answer after it. That
reset is an event of the stream, and that the host agent (its program, line, variables and trace) and the waiting moves go
on across it, is the model's choice (log entry 16). -/
def Obligations.ResetInputDropsEverything : Prop :=
  ∀ s : State, s.nextEvent = .reset →
    ∃ t, step s = .next t ∧
      t.ctrlIE = false ∧ t.busy = false ∧ t.done = false ∧ t.err = false ∧ t.ovr = false ∧
      t.errcode = 0 ∧ t.lastop = 0 ∧
      t.opa = 0 ∧ t.opb = 0 ∧ t.opc = 0 ∧ t.opd = 0 ∧ t.ope = 0 ∧ t.res0 = 0 ∧ t.res1 = 0 ∧
      t.irq = false ∧ t.inflight = none ∧ t.drawReq = none ∧
      (∀ off, t.readWindow off = if off = 0 then 0x5043525950540007 else 0) ∧
      SameAgents s.taken t ∧
      ∀ u a, u.nextEvent = .entropy a → u.inflight = t.inflight → u.drawReq = t.drawReq → step u = .next u.taken

/-- 70_reset_and_hazards.md section 1 (rule R243, an inference of the spec's own): the error each command raises on operands that are all zero. -/
def Obligations.UnloadedCommandsRaiseErrors : Prop :=
  ∀ (i : Instr) (s : State), s.opa = 0 → s.opb = 0 → s.opc = 0 → s.opd = 0 → s.ope = 0 →
    ∃ t, exec i s = .next t ∧
      Raised s t (match i with
        | .modexp | .mulmod => 0x02
        | .witness | .mrtest | .isprime => 0x03
        | .enc | .encr => 0x05
        | .dec => 0x06)

/-! ### The step, and decoding -/

/-- 60_exceptions.md rule R206: the engine agent's turn executes the command in flight, in the state its turn was taken from. -/
def Obligations.StepExecutesDecodedCommand : Prop :=
  ∀ (s : State) (f : InFlight) (i : Instr),
    s.nextEvent = .engine → s.inflight = some f → s.drawReq = none → decode f.word = .ok i →
    step s = exec i s.taken

/-- The word of a command placed as an accepted command word is what the next step executes (log entry 1). -/
def Obligations.PlacedCommandRunsNext : Prop :=
  ∀ (i : Instr) (s : State),
    ∃ u, step (s.withFetchWord 64 (encode i).toNat) = exec i u ∧
      Accepted { s with drawReq := none } u (encode i) ∧ SameAgents s u ∧
      decodeTableWord 64 (encode i).toNat = some i

/-- Words of 30_encoding.md rule R92 and of rule R96, written out. -/
def Obligations.SpecWordsDecode : Prop :=
  decode 0x0000000000000001 = .ok .modexp ∧
  decode 0x0000000000000003 = .ok .witness ∧
  decode 0x0000000000000007 = .ok .encr ∧
  decodeBytes [0x08, 0, 0, 0, 0, 0, 0, 0] = .ok .dec ∧
  decode 0x0000000000000000 = .error (.opcodeUndefined 0x00) ∧
  decode 0x0000000000000009 = .error (.opcodeUndefined 0x09) ∧
  decode 0x0000000000000101 = .error .rsvdNonzero ∧
  decode 0x8000000000000000 = .error .rsvdNonzero

/-- 30_encoding.md rules R91 and R92: the opcode map as one equivalence, and the legality test as the rule writes it. -/
def Obligations.DecodeFollowsOpcodeMap : Prop :=
  ∀ w : Word,
    (∀ i : Instr, decode w = .ok i ↔
      w &&& 0xFFFFFFFFFFFFFFFF = (match i with
        | .modexp => 0x0000000000000001
        | .mulmod => 0x0000000000000002
        | .witness => 0x0000000000000003
        | .mrtest => 0x0000000000000004
        | .isprime => 0x0000000000000005
        | .enc => 0x0000000000000006
        | .encr => 0x0000000000000007
        | .dec => 0x0000000000000008)) ∧
    ((∃ i, decode w = .ok i) ↔
      w.extractLsb' 8 56 = 0 ∧
        w.extractLsb' 0 8 ∈ ([0x01, 0x02, 0x03, 0x04, 0x05, 0x06, 0x07, 0x08] : List Byte))

/-- Decoding and encoding agree on every run of bytes (30_encoding.md rules R91, R92, R97; lanes by 20_memory.md rule R74). -/
def Obligations.DecodeBytesExactlyEncodings : Prop :=
  ∀ (bs : List Byte) (i : Instr), decodeBytes bs = .ok i ↔ bs = byteLanes (encode i)

/-- 20_memory.md rule R74: byte lane i carries bits [8i+7:8i], so the lanes together are the register. -/
def Obligations.ByteLanesCarryRegisterBits : Prop :=
  (∀ (s : State) (off i j : Nat), i < 8 → j < 8 →
    (s.readLane off i).getLsbD j = (s.readWindow off).getLsbD (8 * i + j)) ∧
  (∀ w : Word, w = ofLanes (byteLane w 0) (byteLane w 1) (byteLane w 2) (byteLane w 3)
    (byteLane w 4) (byteLane w 5) (byteLane w 6) (byteLane w 7)) ∧
  (∀ w : Word, decodeBytes (byteLanes w) = decode w)

/-! ### The arithmetic units -/

/-- 40_modexp.md section 1 (rule R110, an inference of the spec's own from the quoted sentences): the exact remainder of the 128-bit product. -/
def Obligations.MulModIsExactRemainder : Prop :=
  ∀ a b m : Word, 1 ≤ m.toNat → (mulMod a b m).toNat = a.toNat * b.toNat % m.toNat

/-- 40_modexp.md section 3 (rule R118, an inference of the spec's own): the square-and-multiply algorithm with its shortcuts is the power modulo m, `0 ^ 0` read as 1. -/
def Obligations.ModExpIsPowerRemainder : Prop :=
  ∀ b0 e m : Word, 1 ≤ m.toNat → (modExp b0 e m).toNat = b0.toNat ^ e.toNat % m.toNat

/-- 41_primality.md rules R141 and R143: the repeated-squaring loop computes the source's definition of a witness. -/
def Obligations.WitnessMatchesDefinition : Prop :=
  ∀ n v : Word, InDomain n.toNat →
    (IsWitness n.toNat v.toNat → witness n v = 1) ∧ (¬ IsWitness n.toNat v.toNat → witness n v = 0)

/-! ### The commands -/

/-- 40_modexp.md rule R113: `MULMOD`. -/
def Obligations.MulmodCommand : Prop :=
  decode 0x0000000000000002 = .ok .mulmod ∧
  ∀ s : State,
    (s.opc = 0 → ∃ t, exec .mulmod s = .next t ∧ Raised s t 0x02) ∧
    (s.opc ≠ 0 → ∃ t r, exec .mulmod s = .next t ∧ Returned s t r 0 ∧
      r.toNat = s.opa.toNat * s.opb.toNat % s.opc.toNat)

/-- 40_modexp.md rules R115 and R116: `MODEXP`, with `modulus > 0` its only precondition. -/
def Obligations.ModexpCommand : Prop :=
  decode 0x0000000000000001 = .ok .modexp ∧
  ∀ s : State,
    (s.opc = 0 → ∃ t, exec .modexp s = .next t ∧ Raised s t 0x02) ∧
    (s.opc ≠ 0 → ∃ t r, exec .modexp s = .next t ∧ Returned s t r 0 ∧
      r.toNat = s.opa.toNat ^ s.opb.toNat % s.opc.toNat)

/-- 41_primality.md rule R142: `WITNESS`. -/
def Obligations.WitnessCommand : Prop :=
  decode 0x0000000000000003 = .ok .witness ∧
  ∀ s : State,
    (¬ InDomain s.opa.toNat → ∃ t, exec .witness s = .next t ∧ Raised s t 0x03) ∧
    (InDomain s.opa.toNat → ∃ t r, exec .witness s = .next t ∧ Returned s t r 0 ∧
      (IsWitness s.opa.toNat s.opb.toNat → r = 1) ∧ (¬ IsWitness s.opa.toNat s.opb.toNat → r = 0))

/-- 41_primality.md rules R145, R147 and R148: `MRTEST` on any sequence of entropy answers. `drawn` are the answers before
the one that settles the command, none of them a witness. That a command waits in a state of its own with its request
outstanding is the model's reading (log entry 5). -/
def Obligations.MrtestCommand : Prop :=
  decode 0x0000000000000004 = .ok .mrtest ∧
  ∀ s : State,
    (¬ InDomain s.opa.toNat → ∃ t, exec .mrtest s = .next t ∧ Raised s t 0x03) ∧
    (s.opa = 3 → ∃ t, exec .mrtest s = .next t ∧ Returned s t 0 0) ∧
    (InDomain s.opa.toNat → s.opa ≠ 3 →
      ∀ (drawn : List Word) (rest : List DrawAnswer),
        s.answers = drawn.map .ok ++ rest → NoWitnessAmong s.opa.toNat drawn →
        (drawn.length = s.opb.toNat → ∃ t, exec .mrtest s = .next t ∧ Returned s t 0 0) ∧
        (drawn.length < s.opb.toNat →
          (rest = [] → ∃ t, exec .mrtest s = .next t ∧ Requested s t 2 (s.opa - 2)) ∧
          (∀ more, rest = .fail :: more → ∃ t, exec .mrtest s = .next t ∧ Raised s t 0x08) ∧
          (∀ v more, rest = .ok v :: more → IsWitness s.opa.toNat v.toNat →
            ∃ t, exec .mrtest s = .next t ∧ Returned s t 1 0)))

/-- 41_primality.md rule R150: `ISPRIME`, 25 draws and the answer inverted. That a command waits in a state of its own with
its request outstanding is the model's reading (log entry 5). -/
def Obligations.IsprimeCommand : Prop :=
  decode 0x0000000000000005 = .ok .isprime ∧
  ∀ s : State,
    (¬ InDomain s.opa.toNat → ∃ t, exec .isprime s = .next t ∧ Raised s t 0x03) ∧
    (s.opa = 3 → ∃ t, exec .isprime s = .next t ∧ Returned s t 1 0) ∧
    (InDomain s.opa.toNat → s.opa ≠ 3 →
      ∀ (drawn : List Word) (rest : List DrawAnswer),
        s.answers = drawn.map .ok ++ rest → NoWitnessAmong s.opa.toNat drawn →
        (drawn.length = 25 → ∃ t, exec .isprime s = .next t ∧ Returned s t 1 0) ∧
        (drawn.length < 25 →
          (rest = [] → ∃ t, exec .isprime s = .next t ∧ Requested s t 2 (s.opa - 2)) ∧
          (∀ more, rest = .fail :: more → ∃ t, exec .isprime s = .next t ∧ Raised s t 0x08) ∧
          (∀ v more, rest = .ok v :: more → IsWitness s.opa.toNat v.toNat →
            ∃ t, exec .isprime s = .next t ∧ Returned s t 0 0)))

/-- 41_primality.md section 3 (rule R151, an inference of the spec's own): whatever the port draws in its range, a "composite" verdict is right, and a prime is never
declared composite. -/
def Obligations.DrawnVerdictsAreSound : Prop :=
  ∀ (s t : State) (f : InFlight) (r : Word),
    InDomain s.opa.toNat → s.inflight = some f →
    (∀ a ∈ f.answers, a.answers ⟨2, s.opa - 2⟩ = true) → Returned s t r 0 →
    (exec .mrtest s = .next t →
      (r = 1 → ¬ Nat.Prime s.opa.toNat) ∧ (Nat.Prime s.opa.toNat → r = 0)) ∧
    (exec .isprime s = .next t →
      (r = 0 → ¬ Nat.Prime s.opa.toNat) ∧ (Nat.Prime s.opa.toNat → r = 1))

/-- 42_elgamal.md rules R172 and R173: `ENC`. -/
def Obligations.EncCommand : Prop :=
  decode 0x0000000000000006 = .ok .enc ∧
  ∀ s : State,
    (s.opa.toNat ≤ 0xFFFFFFFF → ∃ t, exec .enc s = .next t ∧ Raised s t 0x05) ∧
    (0xFFFFFFFF < s.opa.toNat → 2 ^ 32 ≤ s.opd.toNat → ∃ t, exec .enc s = .next t ∧ Raised s t 0x04) ∧
    (0xFFFFFFFF < s.opa.toNat → s.opd.toNat < 2 ^ 32 →
      ∃ t c1 c2, exec .enc s = .next t ∧ Returned s t c1 c2 ∧
        c1.toNat = s.opb.toNat ^ s.ope.toNat % s.opa.toNat ∧
        c2.toNat = s.opd.toNat * (s.opc.toNat ^ s.ope.toNat % s.opa.toNat) % s.opa.toNat)

/-- 42_elgamal.md rule R175: `ENCR`, with its one draw from [1, p - 2] after the checks. That a command waits in a state of
its own with its request outstanding is the model's reading (log entry 5). -/
def Obligations.EncrCommand : Prop :=
  decode 0x0000000000000007 = .ok .encr ∧
  ∀ s : State,
    (s.opa.toNat ≤ 0xFFFFFFFF → ∃ t, exec .encr s = .next t ∧ Raised s t 0x05) ∧
    (0xFFFFFFFF < s.opa.toNat → 2 ^ 32 ≤ s.opd.toNat → ∃ t, exec .encr s = .next t ∧ Raised s t 0x04) ∧
    (0xFFFFFFFF < s.opa.toNat → s.opd.toNat < 2 ^ 32 →
      (s.answers = [] → ∃ t, exec .encr s = .next t ∧ Requested s t 1 (s.opa - 2)) ∧
      (∀ more, s.answers = .fail :: more → ∃ t, exec .encr s = .next t ∧ Raised s t 0x08) ∧
      (∀ r more, s.answers = .ok r :: more →
        ∃ t c1 c2, exec .encr s = .next t ∧ Returned s t c1 c2 ∧
          c1.toNat = s.opb.toNat ^ r.toNat % s.opa.toNat ∧
          c2.toNat = s.opd.toNat * (s.opc.toNat ^ r.toNat % s.opa.toNat) % s.opa.toNat))

/-- 42_elgamal.md rules R178 and R179: `DEC`. -/
def Obligations.DecCommand : Prop :=
  decode 0x0000000000000008 = .ok .dec ∧
  ∀ s : State,
    (s.opa.toNat = 0 ∨ s.opa.toNat ≤ s.opc.toNat → ∃ t, exec .dec s = .next t ∧ Raised s t 0x06) ∧
    (s.opc.toNat < s.opa.toNat →
      ∀ m : Nat, m = s.opd.toNat ^ (s.opa.toNat - s.opc.toNat - 1) % s.opa.toNat
          * (s.ope.toNat % s.opa.toNat) % s.opa.toNat →
        (0xFFFFFFFF < m → ∃ t, exec .dec s = .next t ∧ Raised s t 0x07) ∧
        (m ≤ 0xFFFFFFFF → ∃ t r, exec .dec s = .next t ∧ Returned s t r 0 ∧ r.toNat = m))

/-- 60_exceptions.md rule R201: each error code is reported exactly for its cause, by the commands the table names; a result
reports `NONE`; no other code is produced. For `ENTROPY_FAIL` the cause is a `fail` answer to a draw the command makes:
after draws that are no witnesses and fewer than its count, or the one draw of `ENCR`, with its checks passed. -/
def Obligations.ErrorCodesNameTheirCauses : Prop :=
  ∀ (s t : State) (f : InFlight), step s = .next t → Completes s t → s.inflight = some f →
    (t.err = false → t.errcode = 0x00) ∧
    (t.err = true → 0x01 ≤ t.errcode.toNat ∧ t.errcode.toNat ≤ 0x08) ∧
    (t.errcode = 0x01 ↔ f.word.extractLsb' 8 56 ≠ 0 ∨
      f.word.extractLsb' 0 8 ∉ ([0x01, 0x02, 0x03, 0x04, 0x05, 0x06, 0x07, 0x08] : List Byte)) ∧
    (t.errcode = 0x02 ↔ (decode f.word = .ok .modexp ∨ decode f.word = .ok .mulmod) ∧ s.opc = 0) ∧
    (t.errcode = 0x03 ↔
      (decode f.word = .ok .witness ∨ decode f.word = .ok .mrtest ∨ decode f.word = .ok .isprime) ∧
        (s.opa.toNat < 3 ∨ s.opa.toNat % 2 = 0)) ∧
    (t.errcode = 0x04 ↔ (decode f.word = .ok .enc ∨ decode f.word = .ok .encr) ∧
      0xFFFFFFFF < s.opa.toNat ∧ 2 ^ 32 ≤ s.opd.toNat) ∧
    (t.errcode = 0x05 ↔ (decode f.word = .ok .enc ∨ decode f.word = .ok .encr) ∧ s.opa.toNat ≤ 0xFFFFFFFF) ∧
    (t.errcode = 0x06 ↔ decode f.word = .ok .dec ∧ (s.opa = 0 ∨ s.opa.toNat ≤ s.opc.toNat)) ∧
    (t.errcode = 0x07 ↔ decode f.word = .ok .dec ∧ s.opc.toNat < s.opa.toNat ∧
      0xFFFFFFFF < s.opd.toNat ^ (s.opa.toNat - s.opc.toNat - 1) % s.opa.toNat
        * (s.ope.toNat % s.opa.toNat) % s.opa.toNat) ∧
    (t.errcode = 0x08 ↔ ∃ drawn rest, f.answers = drawn.map .ok ++ .fail :: rest ∧
      ((decode f.word = .ok .mrtest ∧ InDomain s.opa.toNat ∧ s.opa ≠ 3 ∧ drawn.length < s.opb.toNat ∧
          NoWitnessAmong s.opa.toNat drawn) ∨
        (decode f.word = .ok .isprime ∧ InDomain s.opa.toNat ∧ s.opa ≠ 3 ∧ drawn.length < 25 ∧
          NoWitnessAmong s.opa.toNat drawn) ∨
        (decode f.word = .ok .encr ∧ 0xFFFFFFFF < s.opa.toNat ∧ s.opd.toNat < 2 ^ 32 ∧ drawn = [])))

/-- 30_encoding.md section 3: a register the command's row of the operand table does not list is not read, and nothing
else but the entropy answers decides what it leaves. -/
def Obligations.UnlistedRegistersDoNotMatter : Prop :=
  ∀ (i : Instr) (s s' t : State), s.drawReq = none →
    s'.opa = s.opa →
    (i ≠ .isprime → i ≠ .dec → s'.opb = s.opb) →
    (i ≠ .isprime → i ≠ .witness → i ≠ .mrtest → s'.opc = s.opc) →
    (i = .enc ∨ i = .encr ∨ i = .dec → s'.opd = s.opd) →
    (i = .enc ∨ i = .dec → s'.ope = s.ope) →
    (i = .mrtest ∨ i = .isprime ∨ i = .encr → s'.answers = s.answers) →
    exec i s = .next t →
    (∀ r0 r1, Returned s t r0 r1 → ∃ t', exec i s' = .next t' ∧ Returned s' t' r0 r1) ∧
    (∀ code, Raised s t code → ∃ t', exec i s' = .next t' ∧ Raised s' t' code) ∧
    (∀ lo hi, Requested s t lo hi → ∃ t', exec i s' = .next t' ∧ Requested s' t' lo hi)

/-- 42_elgamal.md section 3 (rule R180, an inference of the spec's own): decrypting what `ENC` gives returns the block, for every ephemeral exponent; where g is a
multiple of p it fails: an exponent r of at least 1 gives the block 0. -/
def Obligations.ElGamalRoundTrip : Prop :=
  ∀ (s t u : State),
    Nat.Prime s.opa.toNat → 0xFFFFFFFF < s.opa.toNat →
    1 ≤ u.opc.toNat → u.opc.toNat ≤ s.opa.toNat - 1 →
    s.opc = modExp s.opb u.opc s.opa → s.opd.toNat < 2 ^ 32 →
    exec .enc s = .next t → u.opa = s.opa → u.opd = t.res0 → u.ope = t.res1 →
    (s.opb.toNat % s.opa.toNat ≠ 0 → ∃ v, exec .dec u = .next v ∧ Returned u v s.opd 0) ∧
    (s.opb.toNat % s.opa.toNat = 0 → 1 ≤ s.ope.toNat → ∃ v, exec .dec u = .next v ∧ Returned u v 0 0)

/-- 42_elgamal.md rule R177 and 10_state.md rule R46: what `ENCR` leaves depends on its drawn exponent through c1 and c2 alone. -/
def Obligations.DrawnExponentNeverExposed : Prop :=
  ∀ (s s' t t' : State) (w r r' : Word) (more more' : List DrawAnswer),
    s.inflight = some ⟨w, .ok r :: more⟩ → s' = { s with inflight := some ⟨w, .ok r' :: more'⟩ } →
    exec .encr s = .next t → exec .encr s' = .next t' →
    t.res0 = t'.res0 → t.res1 = t'.res1 → t = t'

/-- 60_exceptions.md rule R203: an illegal word is accepted like any other, its low byte recorded, and completes with
`ILLEGAL_CMD` whatever the operands are. -/
def Obligations.IllegalWordCompletes : Prop :=
  ∀ w : Word,
    (w.extractLsb' 8 56 ≠ 0 ∨
      w.extractLsb' 0 8 ∉ ([0x01, 0x02, 0x03, 0x04, 0x05, 0x06, 0x07, 0x08] : List Byte)) →
    (∀ s, Accepts s w → ∃ t, step s = .next t ∧ Accepted s t w) ∧
    (∀ s answers, s.nextEvent = .engine → s.inflight = some ⟨w, answers⟩ → s.drawReq = none →
      ∃ t, step s = .next t ∧ Raised s.taken t 0x01)

/-! ### The command lifecycle -/

/-- 60_exceptions.md rule R205: acceptance, for every word, and no acceptance while busy. -/
def Obligations.AcceptanceOfCommandWord : Prop :=
  ∀ (s : State) (w : Word), NextWrites s .cmd w →
    (s.busy = false → ∃ t, step s = .next t ∧ Accepted s t w ∧ t.irq = false) ∧
    (s.busy = true → ∃ t, step s = .next t ∧ SameButOvr s t true)

/-- 60_exceptions.md rules R208, R209 and R210: every completion is one event that writes the whole result, or zeros and a
code, and changes nothing else. -/
def Obligations.CompletionIsOneWholeUpdate : Prop :=
  ∀ s t : State, step s = .next t → Completes s t →
    (∃ r0 r1, Returned s.taken t r0 r1) ∨ ∃ code : Byte, 1 ≤ code.toNat ∧ code.toNat ≤ 8 ∧ Raised s.taken t code

/-- 10_state.md section 11 (rule R51, an inference of the spec's own): the invariant is kept by every step. -/
def Obligations.InvariantKeptByEveryStep : Prop :=
  ∀ s t : State, State.Inv s → step s = .next t → State.Inv t

/-- 60_exceptions.md rule R200 and 20_memory.md rule R76: the engine and the entropy port never stop the machine; what
stops it is an access that is not admitted, or a branch of the host program, one that is taken, to a label that does not
stand exactly once in the program (the refusal of the branch is the model's choice, log entry 10). -/
def Obligations.OnlyBadAccessesAndLabelsStop : Prop :=
  (∀ s, s.nextEvent = .engine ∨ (∃ a, s.nextEvent = .entropy a) ∨ s.nextEvent = .reset → ∃ t, step s = .next t) ∧
  (∀ s, (∃ t, step s = .next t) ∨
    (∃ addr n, step s = .refused (.accessNotAdmitted addr n) ∧
      (s.nextEvent = .access (.memRead addr n) ∨ ∃ v, s.nextEvent = .access (.memWrite addr n v)) ∧
      ¬ (n = 8 ∧ ∃ off, addr = Config.baseAddr + off ∧ off % 8 = 0 ∧ off < 0x100)) ∨
    (∃ l, step s = .refused (.labelNotUnique l) ∧ s.nextEvent = .host ∧
      ((∃ e, s.host.prog[s.host.line]? = some (.bnz e l) ∧ e.eval s.host.vars ≠ 0) ∨
        s.host.prog[s.host.line]? = some (.b l)) ∧
      ¬ ∃ k : Nat, s.host.prog[k]? = some (.label l) ∧ ∀ m, s.host.prog[m]? = some (.label l) → m = k))

/-- 60_exceptions.md rule R212: a `CMD` write that races a completion is accepted or discarded by the order alone, and the
command that was running ends with the same results either way. -/
def Obligations.RacingCommandWriteBothOrders : Prop :=
  ∀ (s : State) (w v : Word) (i : Instr) (rest : List Event),
    s.inflight = some ⟨v, []⟩ → s.drawReq = none → s.busy = true → decode v = .ok i → drawRange i s = none →
    ∃ t u,
      Runs 2 { s with events := .engine :: .access (.memWrite (Config.baseAddr + 0x18) 8 w) :: rest } t ∧
      Runs 2 { s with events := .access (.memWrite (Config.baseAddr + 0x18) 8 w) :: .engine :: rest } u ∧
      t.inflight = some ⟨w, []⟩ ∧ t.busy = true ∧ t.ovr = s.ovr ∧
      u.inflight = none ∧ u.busy = false ∧ u.done = true ∧ u.ovr = true ∧
      t.res0 = u.res0 ∧ t.res1 = u.res1

/-- 70_reset_and_hazards.md rule R254: as long as the command is in flight, nothing any agent but reset does changes the
command or its operands, so a command that draws nothing ends with the outcome it had at acceptance. -/
def Obligations.NoStaleOperands : Prop :=
  ∀ (k : Nat) (s t : State) (w : Word),
    s.busy = true → s.inflight = some ⟨w, []⟩ → Runs k s t → t.busy = true →
    Along k s (fun u => u.busy = true ∧ u.nextEvent ≠ .reset) →
    t.opa = s.opa ∧ t.opb = s.opb ∧ t.opc = s.opc ∧ t.opd = s.opd ∧ t.ope = s.ope ∧
    (∃ answers, t.inflight = some ⟨w, answers⟩) ∧ t.res0 = s.res0 ∧ t.res1 = s.res1 ∧
    (∀ i, decode w = .ok i → drawRange i s = none → t.drawReq = none → t.nextEvent = .engine →
      ∃ u v, exec i s = .next u ∧ step t = .next v ∧
        v.res0 = u.res0 ∧ v.res1 = u.res1 ∧ v.err = u.err ∧ v.errcode = u.errcode ∧ v.busy = false)

/-- 20_memory.md rules R77 and R81: once idle, the results and the error report stay until the next acceptance or reset. -/
def Obligations.ReportHoldsUntilNextAcceptance : Prop :=
  ∀ (k : Nat) (s t : State),
    State.Inv s → s.busy = false → Runs k s t →
    Along k s (fun u => u.nextEvent ≠ .reset ∧ ∀ w, ¬ Accepts u w) →
    t.busy = false ∧ t.inflight = none ∧ t.res0 = s.res0 ∧ t.res1 = s.res1 ∧ t.err = s.err ∧ t.errcode = s.errcode ∧
    t.lastop = s.lastop

/-! ### Entropy -/

/-- 70_reset_and_hazards.md rule R255: while a request is outstanding the engine agent's turn changes nothing. -/
def Obligations.EngineWaitsForTheEntropyPort : Prop :=
  ∀ (s : State) (r : DrawRequest), s.nextEvent = .engine → s.drawReq = some r → step s = .next s.taken

/-- 70_reset_and_hazards.md rule R255: a command that makes no draw, and an illegal word, completes in finitely many engine
steps. That the number is one turn is the model's choice (log entry 17). -/
def Obligations.UndrawnCommandsCompleteInOneTurn : Prop :=
  ∀ (s : State) (w : Word),
    s.nextEvent = .engine → s.inflight = some ⟨w, []⟩ → s.drawReq = none →
    (wordDrawRange w s = none ∨ (decode w = .ok .mrtest ∧ s.opb = 0)) →
    ∃ t, step s = .next t ∧ t.busy = false ∧ t.done = true ∧ t.inflight = none

/-- 70_reset_and_hazards.md rule R255: a drawing command completes in finitely many steps when the port answers every request
it makes. That the bound is two steps for each answer and one more is the model's choice: one turn of the engine agent for
each draw and one to complete (log entry 17), with request and answer as events of their own (log entry 5). -/
def Obligations.DrawingCommandsCompleteWhenAnswered : Prop :=
  ∀ (s : State) (i : Instr) (as : List DrawAnswer) (rest : List Event),
    (i = .mrtest ∧ as.length = s.opb.toNat) ∨ (i = .isprime ∧ as.length = 25) ∨ (i = .encr ∧ as.length = 1) →
    s.inflight = some ⟨encode i, []⟩ → s.drawReq = none → s.events = drawSchedule as ++ rest →
    (∀ a ∈ as, ∀ r, drawRange i s = some r → a.answers r = true) →
    ∃ k t, k ≤ 2 * as.length + 1 ∧ Runs k s t ∧ t.inflight = none ∧ t.busy = false ∧ t.done = true

/-- 10_state.md rule R47 and 00_scope.md rule R20: only `MRTEST`, `ISPRIME` and `ENCR` draw, never an idle engine, and
always from a range that is not empty. -/
def Obligations.OnlyDrawingCommandsRequest : Prop :=
  ∀ (s t : State) (r : DrawRequest), step s = .next t → s.drawReq = none → t.drawReq = some r →
    s.nextEvent = .engine ∧ r.lo.toNat ≤ r.hi.toNat ∧
    ∃ f, s.inflight = some f ∧
      (((decode f.word = .ok .mrtest ∨ decode f.word = .ok .isprime) ∧ r.lo = 2 ∧ r.hi.toNat + 2 = s.opa.toNat) ∨
        (decode f.word = .ok .encr ∧ r.lo = 1 ∧ r.hi.toNat + 2 = s.opa.toNat))

/-- 20_memory.md rule R87: an answer to the outstanding request is taken once, after the earlier ones. That an answer
outside the range is no answer is the model's choice (log entry 4). -/
def Obligations.AnswersAreTakenInOrder : Prop :=
  ∀ (s : State) (a : DrawAnswer), s.nextEvent = .entropy a →
    (∀ f r, s.inflight = some f → s.drawReq = some r → a.answers r = true →
      step s = .next { s.taken with inflight := some ⟨f.word, f.answers ++ [a]⟩, drawReq := none }) ∧
    (s.inflight = none ∨ s.drawReq = none ∨ (∃ r, s.drawReq = some r ∧ a.answers r = false) →
      step s = .next s.taken)

/-! ### Registers -/

/-- 10_state.md rule R33: `ID` reads its value in every state and ignores writes. -/
def Obligations.IdIsConstant : Prop :=
  (∀ s : State, s.memRead (Config.baseAddr + 0x00) 8 = some 0x5043525950540007) ∧
  (∀ (s : State) (v : Word), NextWrites s .id v → ∃ t, step s = .next t ∧ SameEngine s t)

/-- 10_state.md rule R34: a `CTRL` write stores bit 0 alone, in every state, and the other bits read 0; `IE` is 0 at reset
and masks the interrupt; no `CTRL` write starts or ends a command. -/
def Obligations.CtrlHoldsOneBit : Prop :=
  State.reset.ctrlIE = false ∧ (∀ s : State, s.irq = if s.ctrlIE then s.done else false) ∧
  ∀ (s : State) (v : Word), NextWrites s .ctrl v →
    ∃ t, step s = .next t ∧ t.ctrlIE = v.getLsbD 0 ∧
      t.memRead (Config.baseAddr + 0x08) 8 = some (if v.getLsbD 0 then 1 else 0) ∧
      SameEngine { s with ctrlIE := v.getLsbD 0 } t

/-- 10_state.md rule R41: a `STATUS` write clears `DONE` and `OVR` by their bits and nothing else, in every state; reserved
bits read 0. -/
def Obligations.StatusWriteClearsByBits : Prop :=
  (∀ (s : State) (v : Word), NextWrites s .status v →
    ∃ t, step s = .next t ∧
      t.done = (if v.getLsbD 1 then false else s.done) ∧
      SameButOvr { s with done := t.done } t (if v.getLsbD 3 then false else s.ovr)) ∧
  (∀ s : State, ∃ w, s.memRead (Config.baseAddr + 0x10) 8 = some w ∧
    w.extractLsb' 4 4 = 0 ∧ w.extractLsb' 24 40 = 0)

/-- 10_state.md section 5 (rules R35 to R41): every bit of the word `STATUS` reads as. -/
def Obligations.StatusWordLayout : Prop :=
  ∀ s : State, ∃ w, s.memRead (Config.baseAddr + 0x10) 8 = some w ∧
    w.toNat = s.busy.toNat + 2 * s.done.toNat + 4 * s.err.toNat + 8 * s.ovr.toNat
      + 2 ^ 8 * s.errcode.toNat + 2 ^ 16 * s.lastop.toNat

/-- 10_state.md rule R35: only acceptance sets `BUSY`, only completion and reset clear it. -/
def Obligations.BusyFromAcceptanceToCompletion : Prop :=
  (∀ s t, step s = .next t → s.busy = false → t.busy = true → ∃ w, Accepts s w) ∧
  (∀ s t, step s = .next t → s.busy = true → t.busy = false → Completes s t ∨ s.nextEvent = .reset) ∧
  (∀ s w, Accepts s w → ∃ t, step s = .next t ∧ t.busy = true) ∧
  (∀ s t, step s = .next t → Completes s t ∨ s.nextEvent = .reset → t.busy = false) ∧
  (∀ s v, NextWrites s .status v → ∃ t, step s = .next t ∧ t.busy = s.busy)

/-- 10_state.md rule R36: what sets `DONE` and what clears it. -/
def Obligations.DoneSetByCompletionAlone : Prop :=
  (∀ s t, step s = .next t → s.done = false → t.done = true → Completes s t) ∧
  (∀ s t, step s = .next t → Completes s t → t.done = true) ∧
  (∀ s t, step s = .next t → s.done = true → t.done = false →
    (∃ w, Accepts s w) ∨ s.nextEvent = .reset ∨ ∃ v, NextWrites s .status v ∧ v.getLsbD 1 = true) ∧
  (∀ s w, Accepts s w → ∃ t, step s = .next t ∧ t.done = false) ∧
  (∀ s t, step s = .next t → s.nextEvent = .reset → t.done = false) ∧
  (∀ s v, NextWrites s .status v →
    ∃ t, step s = .next t ∧ t.done = (if v.getLsbD 1 then false else s.done))

/-- 10_state.md rules R37 and R39: `ERR` and `ERRCODE` are written by completions, cleared by acceptance and reset, and by
nothing else; the codes are 0x00 to 0x08. -/
def Obligations.ErrorReportOfTheLastCompletion : Prop :=
  (∀ s t, step s = .next t → t.err ≠ s.err ∨ t.errcode ≠ s.errcode →
    Completes s t ∨ (∃ w, Accepts s w) ∨ s.nextEvent = .reset) ∧
  (∀ s t, step s = .next t → Completes s t →
    (t.err = false → t.errcode = 0) ∧ (t.err = true → 1 ≤ t.errcode.toNat ∧ t.errcode.toNat ≤ 8)) ∧
  (∀ s w, Accepts s w → ∃ t, step s = .next t ∧ t.err = false ∧ t.errcode = 0) ∧
  (∀ s t, step s = .next t → s.nextEvent = .reset → t.err = false ∧ t.errcode = 0) ∧
  (∀ s v, NextWrites s .status v → ∃ t, step s = .next t ∧ t.err = s.err ∧ t.errcode = s.errcode)

/-- 10_state.md rule R40: `LASTOP` is set at acceptance, defined opcode or not, and holds until the next acceptance or reset. -/
def Obligations.LastopSetAtAcceptance : Prop :=
  (∀ s w, Accepts s w → ∃ t, step s = .next t ∧ t.lastop = w.extractLsb' 0 8) ∧
  (∀ s t, step s = .next t → t.lastop ≠ s.lastop → (∃ w, Accepts s w) ∨ s.nextEvent = .reset) ∧
  (∀ s v, NextWrites s .status v → ∃ t, step s = .next t ∧ t.lastop = s.lastop)

/-- 10_state.md rule R38: `OVR` is raised by the writes a busy engine discards, is sticky, and does not affect `IRQ`. -/
def Obligations.OverrunRaisedAndSticky : Prop :=
  (∀ s r v, r ∈ ([.cmd, .opa, .opb, .opc, .opd, .ope] : List Reg) → s.busy = true → NextWrites s r v →
    ∃ t, step s = .next t ∧ SameButOvr s t true ∧ t.irq = s.irq) ∧
  (∀ s t, step s = .next t → s.ovr = false → t.ovr = true →
    s.busy = true ∧ ∃ r v, r ∈ ([.cmd, .opa, .opb, .opc, .opd, .ope] : List Reg) ∧ NextWrites s r v) ∧
  (∀ s t, step s = .next t → s.ovr = true → t.ovr = false →
    s.nextEvent = .reset ∨ ∃ v, NextWrites s .status v ∧ v.getLsbD 3 = true) ∧
  (∀ s v, NextWrites s .status v → v.getLsbD 3 = true → ∃ t, step s = .next t ∧ t.ovr = false) ∧
  (∀ s t, step s = .next t → s.nextEvent = .reset → t.ovr = false)

/-- 10_state.md rule R43: the operand registers, written by idle host writes alone and read back in every state. -/
def Obligations.OperandRegistersBelongToTheHost : Prop :=
  (∀ s r v, r ∈ ([.opa, .opb, .opc, .opd, .ope] : List Reg) → NextWrites s r v →
    (s.busy = false → ∃ t, step s = .next t ∧ t.memRead (Config.baseAddr + r.offset) 8 = some v ∧
      (∀ r', r' ≠ r → t.x r' = s.x r') ∧ t.inflight = s.inflight ∧ t.drawReq = s.drawReq) ∧
    (s.busy = true → ∃ t, step s = .next t ∧ SameButOvr s t true)) ∧
  (∀ (s : State) (r : Reg), r ∈ ([.opa, .opb, .opc, .opd, .ope] : List Reg) →
    s.memRead (Config.baseAddr + r.offset) 8 = some (s.x r)) ∧
  (∀ s t r, r ∈ ([.opa, .opb, .opc, .opd, .ope] : List Reg) → step s = .next t → t.x r ≠ s.x r →
    s.nextEvent = .reset ∨ ∃ v, NextWrites s r v ∧ s.busy = false)

/-- 10_state.md rule R44: the result registers, written by completions (and reset) alone, both at once; host writes are ignored. -/
def Obligations.ResultRegistersWrittenByCompletions : Prop :=
  (∀ s t, step s = .next t → t.res0 ≠ s.res0 ∨ t.res1 ≠ s.res1 → Completes s t ∨ s.nextEvent = .reset) ∧
  (∀ s t, step s = .next t → Completes s t →
    (∃ r0 r1, Returned s.taken t r0 r1) ∨ (∃ code, Raised s.taken t code)) ∧
  (∀ s v, NextWrites s .res0 v ∨ NextWrites s .res1 v → ∃ t, step s = .next t ∧ SameEngine s t) ∧
  (∀ s : State, s.memRead (Config.baseAddr + 0x48) 8 = some s.res0 ∧ s.memRead (Config.baseAddr + 0x50) 8 = some s.res1) ∧
  State.reset.res0 = 0 ∧ State.reset.res1 = 0

/-- 10_state.md rule R48: the interrupt level, and every way it rises or falls. -/
def Obligations.InterruptLevel : Prop :=
  (∀ s : State, s.irq = true ↔ s.ctrlIE = true ∧ s.done = true) ∧ State.reset.irq = false ∧
  (∀ s t, step s = .next t → s.irq = false → t.irq = true →
    (Completes s t ∧ s.ctrlIE = true) ∨ ∃ v, NextWrites s .ctrl v ∧ v.getLsbD 0 = true ∧ s.done = true) ∧
  (∀ s t, step s = .next t → s.irq = true → t.irq = false →
    (∃ v, NextWrites s .status v ∧ v.getLsbD 1 = true) ∨ (∃ w, Accepts s w) ∨
    (∃ v, NextWrites s .ctrl v ∧ v.getLsbD 0 = false) ∨ s.nextEvent = .reset)

/-! ### The register port -/

/-- 20_memory.md rules R71 and R76: exactly the aligned 8-byte accesses inside the window are admitted; every other one is refused. -/
def Obligations.OnlyAdmittedAccessesHaveMeaning : Prop :=
  ∀ (s : State) (addr n : Nat) (v : Word),
    s.nextEvent = .access (.memRead addr n) ∨ s.nextEvent = .access (.memWrite addr n v) →
    ((n = 8 ∧ ∃ off, addr = Config.baseAddr + off ∧ off % 8 = 0 ∧ off < 0x100) → ∃ t, step s = .next t) ∧
    (¬ (n = 8 ∧ ∃ off, addr = Config.baseAddr + off ∧ off % 8 = 0 ∧ off < 0x100) →
      step s = .refused (.accessNotAdmitted addr n))

/-- 20_memory.md rule R72: an admitted read returns the register's read value and changes no state. -/
def Obligations.ReadsReturnRegistersAndChangeNothing : Prop :=
  (∀ (s : State) (r : Reg), s.memRead (Config.baseAddr + r.offset) 8 = some (match r with
    | .id => 0x5043525950540007
    | .ctrl => s.ctrlWord
    | .status => s.statusWord
    | .cmd => 0
    | .opa => s.opa
    | .opb => s.opb
    | .opc => s.opc
    | .opd => s.opd
    | .ope => s.ope
    | .res0 => s.res0
    | .res1 => s.res1)) ∧
  (∀ (s t : State) (addr n : Nat), s.nextEvent = .access (.memRead addr n) → step s = .next t → t = s.taken) ∧
  (∀ (s : State) (r : Reg) (x : Nat), s.nextEvent = .host → s.host.prog[s.host.line]? = some (.rd r x) →
    ∃ t, step s = .next t ∧ SameEngine s t)

/-- 20_memory.md rule R75: reserved offsets read 0, ignore writes and do not set `OVR`. -/
def Obligations.ReservedOffsetsReadZeroIgnoreWrites : Prop :=
  ∀ (off : Nat), off % 8 = 0 → 0x58 ≤ off → off ≤ 0xF8 →
    (∀ s : State, s.memRead (Config.baseAddr + off) 8 = some 0) ∧
    (∀ (s : State) (v : Word), s.nextEvent = .access (.memWrite (Config.baseAddr + off) 8 v) → step s = .next s.taken)

/-! ### The host program -/

/-- 30_encoding.md rule R98: a `wr` line is the admitted write at `BASE_ADDR + off(REG)`, a `rd` line the admitted read there,
its value in the variable. That a value wider than 64 bits is written mod 2^64 is the model's choice (log entry 8). -/
def Obligations.HostBusLines : Prop :=
  (∀ (s : State) (r : Reg) (e : HostExpr), s.nextEvent = .host → s.host.prog[s.host.line]? = some (.wr r e) →
    ∃ u t, s.memWrite (Config.baseAddr + r.offset) 8 (BitVec.ofNat 64 (e.eval s.host.vars)) = some u ∧
      step s = .next t ∧ SameEngine u t ∧ t.host.line = s.host.line + 1 ∧ t.host.prog = s.host.prog ∧
      t.host.vars = s.host.vars ∧
      t.host.trace = s.host.trace ++ [.w r.offset (BitVec.ofNat 64 (e.eval s.host.vars))]) ∧
  (∀ (s : State) (r : Reg) (x : Nat), varsWf s.host.vars = true →
    s.nextEvent = .host → s.host.prog[s.host.line]? = some (.rd r x) →
    ∃ v t, s.memRead (Config.baseAddr + r.offset) 8 = some v ∧
      step s = .next t ∧ SameEngine s t ∧ t.host.line = s.host.line + 1 ∧ t.host.prog = s.host.prog ∧
      varGet t.host.vars x = v ∧ (∀ y, y ≠ x → varGet t.host.vars y = varGet s.host.vars y) ∧
      t.host.trace = s.host.trace ++ [.r r.offset v])

/-- 30_encoding.md rule R99: the lines that cause no bus transaction. Which label a branch means where a program declares
it more than once, or not at all, is left out (log entry 10). That `bnz` tests the natural value of its expression, so that
a value of 2^64 branches, is the model's choice (log entry 8). -/
def Obligations.HostControlLines : Prop :=
  (∀ x, varGet State.reset.host.vars x = 0) ∧
  ∀ s : State, s.nextEvent = .host → varsWf s.host.vars = true →
    (∀ x e, s.host.prog[s.host.line]? = some (.set x e) →
      ∃ t, step s = .next t ∧ SameEngine s t ∧ t.host.line = s.host.line + 1 ∧ t.host.trace = s.host.trace ∧
        (varGet t.host.vars x).toNat = e.eval s.host.vars % 2 ^ 64 ∧
        ∀ y, y ≠ x → varGet t.host.vars y = varGet s.host.vars y) ∧
    (∀ l, s.host.prog[s.host.line]? = some (.label l) →
      step s = .next { s.taken with host := { s.host with line := s.host.line + 1 } }) ∧
    (∀ l e, s.host.prog[s.host.line]? = some (.bnz e l) → e.eval s.host.vars = 0 →
      step s = .next { s.taken with host := { s.host with line := s.host.line + 1 } }) ∧
    (∀ l n, (∃ e, s.host.prog[s.host.line]? = some (.bnz e l) ∧ e.eval s.host.vars ≠ 0) ∨
        s.host.prog[s.host.line]? = some (.b l) →
      s.host.prog[n]? = some (.label l) → (∀ m, s.host.prog[m]? = some (.label l) → m = n) →
      step s = .next { s.taken with host := { s.host with line := n } }) ∧
    (s.host.prog[s.host.line]? = some .halt → step s = .next s.taken)
end

