-- ==== Sys2Proof/Laws/State.lean ====
section
/-! SUPPORT. Every field after every update of the state: one lemma each, so that no proof unfolds a record update. -/

namespace Sys2Proof.Machine

variable (s : State)


/-! ### `State.accept` -/

@[simp] theorem State.accept_ctrlIE (w : Word) : (s.accept w).ctrlIE = s.ctrlIE := rfl
@[simp] theorem State.accept_busy (w : Word) : (s.accept w).busy = true := rfl
@[simp] theorem State.accept_done (w : Word) : (s.accept w).done = false := rfl
@[simp] theorem State.accept_err (w : Word) : (s.accept w).err = false := rfl
@[simp] theorem State.accept_ovr (w : Word) : (s.accept w).ovr = s.ovr := rfl
@[simp] theorem State.accept_errcode (w : Word) : (s.accept w).errcode = 0 := rfl
@[simp] theorem State.accept_lastop (w : Word) : (s.accept w).lastop = w.setWidth 8 := rfl
@[simp] theorem State.accept_opa (w : Word) : (s.accept w).opa = s.opa := rfl
@[simp] theorem State.accept_opb (w : Word) : (s.accept w).opb = s.opb := rfl
@[simp] theorem State.accept_opc (w : Word) : (s.accept w).opc = s.opc := rfl
@[simp] theorem State.accept_opd (w : Word) : (s.accept w).opd = s.opd := rfl
@[simp] theorem State.accept_ope (w : Word) : (s.accept w).ope = s.ope := rfl
@[simp] theorem State.accept_res0 (w : Word) : (s.accept w).res0 = s.res0 := rfl
@[simp] theorem State.accept_res1 (w : Word) : (s.accept w).res1 = s.res1 := rfl
@[simp] theorem State.accept_inflight (w : Word) : (s.accept w).inflight = some ⟨w, []⟩ := rfl
@[simp] theorem State.accept_drawReq (w : Word) : (s.accept w).drawReq = s.drawReq := rfl
@[simp] theorem State.accept_host (w : Word) : (s.accept w).host = s.host := rfl
@[simp] theorem State.accept_events (w : Word) : (s.accept w).events = s.events := rfl
@[simp] theorem State.accept_tick (w : Word) : (s.accept w).tick = s.tick := rfl

/-! ### `State.complete` -/

@[simp] theorem State.complete_ctrlIE (r0 r1 : Word) (e : Bool) (c : Byte) : (s.complete r0 r1 e c).ctrlIE = s.ctrlIE := rfl
@[simp] theorem State.complete_busy (r0 r1 : Word) (e : Bool) (c : Byte) : (s.complete r0 r1 e c).busy = false := rfl
@[simp] theorem State.complete_done (r0 r1 : Word) (e : Bool) (c : Byte) : (s.complete r0 r1 e c).done = true := rfl
@[simp] theorem State.complete_err (r0 r1 : Word) (e : Bool) (c : Byte) : (s.complete r0 r1 e c).err = e := rfl
@[simp] theorem State.complete_ovr (r0 r1 : Word) (e : Bool) (c : Byte) : (s.complete r0 r1 e c).ovr = s.ovr := rfl
@[simp] theorem State.complete_errcode (r0 r1 : Word) (e : Bool) (c : Byte) : (s.complete r0 r1 e c).errcode = c := rfl
@[simp] theorem State.complete_lastop (r0 r1 : Word) (e : Bool) (c : Byte) : (s.complete r0 r1 e c).lastop = s.lastop := rfl
@[simp] theorem State.complete_opa (r0 r1 : Word) (e : Bool) (c : Byte) : (s.complete r0 r1 e c).opa = s.opa := rfl
@[simp] theorem State.complete_opb (r0 r1 : Word) (e : Bool) (c : Byte) : (s.complete r0 r1 e c).opb = s.opb := rfl
@[simp] theorem State.complete_opc (r0 r1 : Word) (e : Bool) (c : Byte) : (s.complete r0 r1 e c).opc = s.opc := rfl
@[simp] theorem State.complete_opd (r0 r1 : Word) (e : Bool) (c : Byte) : (s.complete r0 r1 e c).opd = s.opd := rfl
@[simp] theorem State.complete_ope (r0 r1 : Word) (e : Bool) (c : Byte) : (s.complete r0 r1 e c).ope = s.ope := rfl
@[simp] theorem State.complete_res0 (r0 r1 : Word) (e : Bool) (c : Byte) : (s.complete r0 r1 e c).res0 = r0 := rfl
@[simp] theorem State.complete_res1 (r0 r1 : Word) (e : Bool) (c : Byte) : (s.complete r0 r1 e c).res1 = r1 := rfl
@[simp] theorem State.complete_inflight (r0 r1 : Word) (e : Bool) (c : Byte) : (s.complete r0 r1 e c).inflight = none := rfl
@[simp] theorem State.complete_drawReq (r0 r1 : Word) (e : Bool) (c : Byte) : (s.complete r0 r1 e c).drawReq = s.drawReq := rfl
@[simp] theorem State.complete_host (r0 r1 : Word) (e : Bool) (c : Byte) : (s.complete r0 r1 e c).host = s.host := rfl
@[simp] theorem State.complete_events (r0 r1 : Word) (e : Bool) (c : Byte) : (s.complete r0 r1 e c).events = s.events := rfl
@[simp] theorem State.complete_tick (r0 r1 : Word) (e : Bool) (c : Byte) : (s.complete r0 r1 e c).tick = s.tick := rfl

/-! ### `State.issueDraw` -/

@[simp] theorem State.issueDraw_ctrlIE (r : DrawRequest) : (s.issueDraw r).ctrlIE = s.ctrlIE := rfl
@[simp] theorem State.issueDraw_busy (r : DrawRequest) : (s.issueDraw r).busy = s.busy := rfl
@[simp] theorem State.issueDraw_done (r : DrawRequest) : (s.issueDraw r).done = s.done := rfl
@[simp] theorem State.issueDraw_err (r : DrawRequest) : (s.issueDraw r).err = s.err := rfl
@[simp] theorem State.issueDraw_ovr (r : DrawRequest) : (s.issueDraw r).ovr = s.ovr := rfl
@[simp] theorem State.issueDraw_errcode (r : DrawRequest) : (s.issueDraw r).errcode = s.errcode := rfl
@[simp] theorem State.issueDraw_lastop (r : DrawRequest) : (s.issueDraw r).lastop = s.lastop := rfl
@[simp] theorem State.issueDraw_opa (r : DrawRequest) : (s.issueDraw r).opa = s.opa := rfl
@[simp] theorem State.issueDraw_opb (r : DrawRequest) : (s.issueDraw r).opb = s.opb := rfl
@[simp] theorem State.issueDraw_opc (r : DrawRequest) : (s.issueDraw r).opc = s.opc := rfl
@[simp] theorem State.issueDraw_opd (r : DrawRequest) : (s.issueDraw r).opd = s.opd := rfl
@[simp] theorem State.issueDraw_ope (r : DrawRequest) : (s.issueDraw r).ope = s.ope := rfl
@[simp] theorem State.issueDraw_res0 (r : DrawRequest) : (s.issueDraw r).res0 = s.res0 := rfl
@[simp] theorem State.issueDraw_res1 (r : DrawRequest) : (s.issueDraw r).res1 = s.res1 := rfl
@[simp] theorem State.issueDraw_inflight (r : DrawRequest) : (s.issueDraw r).inflight = s.inflight := rfl
@[simp] theorem State.issueDraw_drawReq (r : DrawRequest) : (s.issueDraw r).drawReq = some r := rfl
@[simp] theorem State.issueDraw_host (r : DrawRequest) : (s.issueDraw r).host = s.host := rfl
@[simp] theorem State.issueDraw_events (r : DrawRequest) : (s.issueDraw r).events = s.events := rfl
@[simp] theorem State.issueDraw_tick (r : DrawRequest) : (s.issueDraw r).tick = s.tick := rfl

/-! ### `State.setIE` -/

@[simp] theorem State.setIE_ctrlIE (v : Word) : (s.setIE v).ctrlIE = v.getLsbD 0 := rfl
@[simp] theorem State.setIE_busy (v : Word) : (s.setIE v).busy = s.busy := rfl
@[simp] theorem State.setIE_done (v : Word) : (s.setIE v).done = s.done := rfl
@[simp] theorem State.setIE_err (v : Word) : (s.setIE v).err = s.err := rfl
@[simp] theorem State.setIE_ovr (v : Word) : (s.setIE v).ovr = s.ovr := rfl
@[simp] theorem State.setIE_errcode (v : Word) : (s.setIE v).errcode = s.errcode := rfl
@[simp] theorem State.setIE_lastop (v : Word) : (s.setIE v).lastop = s.lastop := rfl
@[simp] theorem State.setIE_opa (v : Word) : (s.setIE v).opa = s.opa := rfl
@[simp] theorem State.setIE_opb (v : Word) : (s.setIE v).opb = s.opb := rfl
@[simp] theorem State.setIE_opc (v : Word) : (s.setIE v).opc = s.opc := rfl
@[simp] theorem State.setIE_opd (v : Word) : (s.setIE v).opd = s.opd := rfl
@[simp] theorem State.setIE_ope (v : Word) : (s.setIE v).ope = s.ope := rfl
@[simp] theorem State.setIE_res0 (v : Word) : (s.setIE v).res0 = s.res0 := rfl
@[simp] theorem State.setIE_res1 (v : Word) : (s.setIE v).res1 = s.res1 := rfl
@[simp] theorem State.setIE_inflight (v : Word) : (s.setIE v).inflight = s.inflight := rfl
@[simp] theorem State.setIE_drawReq (v : Word) : (s.setIE v).drawReq = s.drawReq := rfl
@[simp] theorem State.setIE_host (v : Word) : (s.setIE v).host = s.host := rfl
@[simp] theorem State.setIE_events (v : Word) : (s.setIE v).events = s.events := rfl
@[simp] theorem State.setIE_tick (v : Word) : (s.setIE v).tick = s.tick := rfl

/-! ### `State.acknowledge` -/

@[simp] theorem State.acknowledge_ctrlIE (v : Word) : (s.acknowledge v).ctrlIE = s.ctrlIE := rfl
@[simp] theorem State.acknowledge_busy (v : Word) : (s.acknowledge v).busy = s.busy := rfl
@[simp] theorem State.acknowledge_done (v : Word) : (s.acknowledge v).done = (s.done && !v.getLsbD 1) := rfl
@[simp] theorem State.acknowledge_err (v : Word) : (s.acknowledge v).err = s.err := rfl
@[simp] theorem State.acknowledge_ovr (v : Word) : (s.acknowledge v).ovr = (s.ovr && !v.getLsbD 3) := rfl
@[simp] theorem State.acknowledge_errcode (v : Word) : (s.acknowledge v).errcode = s.errcode := rfl
@[simp] theorem State.acknowledge_lastop (v : Word) : (s.acknowledge v).lastop = s.lastop := rfl
@[simp] theorem State.acknowledge_opa (v : Word) : (s.acknowledge v).opa = s.opa := rfl
@[simp] theorem State.acknowledge_opb (v : Word) : (s.acknowledge v).opb = s.opb := rfl
@[simp] theorem State.acknowledge_opc (v : Word) : (s.acknowledge v).opc = s.opc := rfl
@[simp] theorem State.acknowledge_opd (v : Word) : (s.acknowledge v).opd = s.opd := rfl
@[simp] theorem State.acknowledge_ope (v : Word) : (s.acknowledge v).ope = s.ope := rfl
@[simp] theorem State.acknowledge_res0 (v : Word) : (s.acknowledge v).res0 = s.res0 := rfl
@[simp] theorem State.acknowledge_res1 (v : Word) : (s.acknowledge v).res1 = s.res1 := rfl
@[simp] theorem State.acknowledge_inflight (v : Word) : (s.acknowledge v).inflight = s.inflight := rfl
@[simp] theorem State.acknowledge_drawReq (v : Word) : (s.acknowledge v).drawReq = s.drawReq := rfl
@[simp] theorem State.acknowledge_host (v : Word) : (s.acknowledge v).host = s.host := rfl
@[simp] theorem State.acknowledge_events (v : Word) : (s.acknowledge v).events = s.events := rfl
@[simp] theorem State.acknowledge_tick (v : Word) : (s.acknowledge v).tick = s.tick := rfl

/-! ### `State.raiseOvr` -/

@[simp] theorem State.raiseOvr_ctrlIE : (s.raiseOvr).ctrlIE = s.ctrlIE := rfl
@[simp] theorem State.raiseOvr_busy : (s.raiseOvr).busy = s.busy := rfl
@[simp] theorem State.raiseOvr_done : (s.raiseOvr).done = s.done := rfl
@[simp] theorem State.raiseOvr_err : (s.raiseOvr).err = s.err := rfl
@[simp] theorem State.raiseOvr_ovr : (s.raiseOvr).ovr = true := rfl
@[simp] theorem State.raiseOvr_errcode : (s.raiseOvr).errcode = s.errcode := rfl
@[simp] theorem State.raiseOvr_lastop : (s.raiseOvr).lastop = s.lastop := rfl
@[simp] theorem State.raiseOvr_opa : (s.raiseOvr).opa = s.opa := rfl
@[simp] theorem State.raiseOvr_opb : (s.raiseOvr).opb = s.opb := rfl
@[simp] theorem State.raiseOvr_opc : (s.raiseOvr).opc = s.opc := rfl
@[simp] theorem State.raiseOvr_opd : (s.raiseOvr).opd = s.opd := rfl
@[simp] theorem State.raiseOvr_ope : (s.raiseOvr).ope = s.ope := rfl
@[simp] theorem State.raiseOvr_res0 : (s.raiseOvr).res0 = s.res0 := rfl
@[simp] theorem State.raiseOvr_res1 : (s.raiseOvr).res1 = s.res1 := rfl
@[simp] theorem State.raiseOvr_inflight : (s.raiseOvr).inflight = s.inflight := rfl
@[simp] theorem State.raiseOvr_drawReq : (s.raiseOvr).drawReq = s.drawReq := rfl
@[simp] theorem State.raiseOvr_host : (s.raiseOvr).host = s.host := rfl
@[simp] theorem State.raiseOvr_events : (s.raiseOvr).events = s.events := rfl
@[simp] theorem State.raiseOvr_tick : (s.raiseOvr).tick = s.tick := rfl

/-! ### `State.resetEngine` -/

@[simp] theorem State.resetEngine_ctrlIE : (s.resetEngine).ctrlIE = State.reset.ctrlIE := rfl
@[simp] theorem State.resetEngine_busy : (s.resetEngine).busy = State.reset.busy := rfl
@[simp] theorem State.resetEngine_done : (s.resetEngine).done = State.reset.done := rfl
@[simp] theorem State.resetEngine_err : (s.resetEngine).err = State.reset.err := rfl
@[simp] theorem State.resetEngine_ovr : (s.resetEngine).ovr = State.reset.ovr := rfl
@[simp] theorem State.resetEngine_errcode : (s.resetEngine).errcode = State.reset.errcode := rfl
@[simp] theorem State.resetEngine_lastop : (s.resetEngine).lastop = State.reset.lastop := rfl
@[simp] theorem State.resetEngine_opa : (s.resetEngine).opa = State.reset.opa := rfl
@[simp] theorem State.resetEngine_opb : (s.resetEngine).opb = State.reset.opb := rfl
@[simp] theorem State.resetEngine_opc : (s.resetEngine).opc = State.reset.opc := rfl
@[simp] theorem State.resetEngine_opd : (s.resetEngine).opd = State.reset.opd := rfl
@[simp] theorem State.resetEngine_ope : (s.resetEngine).ope = State.reset.ope := rfl
@[simp] theorem State.resetEngine_res0 : (s.resetEngine).res0 = State.reset.res0 := rfl
@[simp] theorem State.resetEngine_res1 : (s.resetEngine).res1 = State.reset.res1 := rfl
@[simp] theorem State.resetEngine_inflight : (s.resetEngine).inflight = State.reset.inflight := rfl
@[simp] theorem State.resetEngine_drawReq : (s.resetEngine).drawReq = State.reset.drawReq := rfl
@[simp] theorem State.resetEngine_host : (s.resetEngine).host = s.host := rfl
@[simp] theorem State.resetEngine_events : (s.resetEngine).events = s.events := rfl
@[simp] theorem State.resetEngine_tick : (s.resetEngine).tick = s.tick := rfl

/-! ### `State.nextLine` -/

@[simp] theorem State.nextLine_ctrlIE : (s.nextLine).ctrlIE = s.ctrlIE := rfl
@[simp] theorem State.nextLine_busy : (s.nextLine).busy = s.busy := rfl
@[simp] theorem State.nextLine_done : (s.nextLine).done = s.done := rfl
@[simp] theorem State.nextLine_err : (s.nextLine).err = s.err := rfl
@[simp] theorem State.nextLine_ovr : (s.nextLine).ovr = s.ovr := rfl
@[simp] theorem State.nextLine_errcode : (s.nextLine).errcode = s.errcode := rfl
@[simp] theorem State.nextLine_lastop : (s.nextLine).lastop = s.lastop := rfl
@[simp] theorem State.nextLine_opa : (s.nextLine).opa = s.opa := rfl
@[simp] theorem State.nextLine_opb : (s.nextLine).opb = s.opb := rfl
@[simp] theorem State.nextLine_opc : (s.nextLine).opc = s.opc := rfl
@[simp] theorem State.nextLine_opd : (s.nextLine).opd = s.opd := rfl
@[simp] theorem State.nextLine_ope : (s.nextLine).ope = s.ope := rfl
@[simp] theorem State.nextLine_res0 : (s.nextLine).res0 = s.res0 := rfl
@[simp] theorem State.nextLine_res1 : (s.nextLine).res1 = s.res1 := rfl
@[simp] theorem State.nextLine_inflight : (s.nextLine).inflight = s.inflight := rfl
@[simp] theorem State.nextLine_drawReq : (s.nextLine).drawReq = s.drawReq := rfl
@[simp] theorem State.nextLine_host : (s.nextLine).host = { s.host with line := s.host.line + 1 } := rfl
@[simp] theorem State.nextLine_events : (s.nextLine).events = s.events := rfl
@[simp] theorem State.nextLine_tick : (s.nextLine).tick = s.tick := rfl

/-! ### `State.gotoLine` -/

@[simp] theorem State.gotoLine_ctrlIE (n : Nat) : (s.gotoLine n).ctrlIE = s.ctrlIE := rfl
@[simp] theorem State.gotoLine_busy (n : Nat) : (s.gotoLine n).busy = s.busy := rfl
@[simp] theorem State.gotoLine_done (n : Nat) : (s.gotoLine n).done = s.done := rfl
@[simp] theorem State.gotoLine_err (n : Nat) : (s.gotoLine n).err = s.err := rfl
@[simp] theorem State.gotoLine_ovr (n : Nat) : (s.gotoLine n).ovr = s.ovr := rfl
@[simp] theorem State.gotoLine_errcode (n : Nat) : (s.gotoLine n).errcode = s.errcode := rfl
@[simp] theorem State.gotoLine_lastop (n : Nat) : (s.gotoLine n).lastop = s.lastop := rfl
@[simp] theorem State.gotoLine_opa (n : Nat) : (s.gotoLine n).opa = s.opa := rfl
@[simp] theorem State.gotoLine_opb (n : Nat) : (s.gotoLine n).opb = s.opb := rfl
@[simp] theorem State.gotoLine_opc (n : Nat) : (s.gotoLine n).opc = s.opc := rfl
@[simp] theorem State.gotoLine_opd (n : Nat) : (s.gotoLine n).opd = s.opd := rfl
@[simp] theorem State.gotoLine_ope (n : Nat) : (s.gotoLine n).ope = s.ope := rfl
@[simp] theorem State.gotoLine_res0 (n : Nat) : (s.gotoLine n).res0 = s.res0 := rfl
@[simp] theorem State.gotoLine_res1 (n : Nat) : (s.gotoLine n).res1 = s.res1 := rfl
@[simp] theorem State.gotoLine_inflight (n : Nat) : (s.gotoLine n).inflight = s.inflight := rfl
@[simp] theorem State.gotoLine_drawReq (n : Nat) : (s.gotoLine n).drawReq = s.drawReq := rfl
@[simp] theorem State.gotoLine_host (n : Nat) : (s.gotoLine n).host = { s.host with line := n } := rfl
@[simp] theorem State.gotoLine_events (n : Nat) : (s.gotoLine n).events = s.events := rfl
@[simp] theorem State.gotoLine_tick (n : Nat) : (s.gotoLine n).tick = s.tick := rfl

/-! ### `State.setVar` -/

@[simp] theorem State.setVar_ctrlIE (t : Nat) (v : Word) : (s.setVar t v).ctrlIE = s.ctrlIE := rfl
@[simp] theorem State.setVar_busy (t : Nat) (v : Word) : (s.setVar t v).busy = s.busy := rfl
@[simp] theorem State.setVar_done (t : Nat) (v : Word) : (s.setVar t v).done = s.done := rfl
@[simp] theorem State.setVar_err (t : Nat) (v : Word) : (s.setVar t v).err = s.err := rfl
@[simp] theorem State.setVar_ovr (t : Nat) (v : Word) : (s.setVar t v).ovr = s.ovr := rfl
@[simp] theorem State.setVar_errcode (t : Nat) (v : Word) : (s.setVar t v).errcode = s.errcode := rfl
@[simp] theorem State.setVar_lastop (t : Nat) (v : Word) : (s.setVar t v).lastop = s.lastop := rfl
@[simp] theorem State.setVar_opa (t : Nat) (v : Word) : (s.setVar t v).opa = s.opa := rfl
@[simp] theorem State.setVar_opb (t : Nat) (v : Word) : (s.setVar t v).opb = s.opb := rfl
@[simp] theorem State.setVar_opc (t : Nat) (v : Word) : (s.setVar t v).opc = s.opc := rfl
@[simp] theorem State.setVar_opd (t : Nat) (v : Word) : (s.setVar t v).opd = s.opd := rfl
@[simp] theorem State.setVar_ope (t : Nat) (v : Word) : (s.setVar t v).ope = s.ope := rfl
@[simp] theorem State.setVar_res0 (t : Nat) (v : Word) : (s.setVar t v).res0 = s.res0 := rfl
@[simp] theorem State.setVar_res1 (t : Nat) (v : Word) : (s.setVar t v).res1 = s.res1 := rfl
@[simp] theorem State.setVar_inflight (t : Nat) (v : Word) : (s.setVar t v).inflight = s.inflight := rfl
@[simp] theorem State.setVar_drawReq (t : Nat) (v : Word) : (s.setVar t v).drawReq = s.drawReq := rfl
@[simp] theorem State.setVar_host (t : Nat) (v : Word) : (s.setVar t v).host = { s.host with vars := varSet s.host.vars t v } := rfl
@[simp] theorem State.setVar_events (t : Nat) (v : Word) : (s.setVar t v).events = s.events := rfl
@[simp] theorem State.setVar_tick (t : Nat) (v : Word) : (s.setVar t v).tick = s.tick := rfl

/-! ### `State.record` -/

@[simp] theorem State.record_ctrlIE (b : BusTransfer) : (s.record b).ctrlIE = s.ctrlIE := rfl
@[simp] theorem State.record_busy (b : BusTransfer) : (s.record b).busy = s.busy := rfl
@[simp] theorem State.record_done (b : BusTransfer) : (s.record b).done = s.done := rfl
@[simp] theorem State.record_err (b : BusTransfer) : (s.record b).err = s.err := rfl
@[simp] theorem State.record_ovr (b : BusTransfer) : (s.record b).ovr = s.ovr := rfl
@[simp] theorem State.record_errcode (b : BusTransfer) : (s.record b).errcode = s.errcode := rfl
@[simp] theorem State.record_lastop (b : BusTransfer) : (s.record b).lastop = s.lastop := rfl
@[simp] theorem State.record_opa (b : BusTransfer) : (s.record b).opa = s.opa := rfl
@[simp] theorem State.record_opb (b : BusTransfer) : (s.record b).opb = s.opb := rfl
@[simp] theorem State.record_opc (b : BusTransfer) : (s.record b).opc = s.opc := rfl
@[simp] theorem State.record_opd (b : BusTransfer) : (s.record b).opd = s.opd := rfl
@[simp] theorem State.record_ope (b : BusTransfer) : (s.record b).ope = s.ope := rfl
@[simp] theorem State.record_res0 (b : BusTransfer) : (s.record b).res0 = s.res0 := rfl
@[simp] theorem State.record_res1 (b : BusTransfer) : (s.record b).res1 = s.res1 := rfl
@[simp] theorem State.record_inflight (b : BusTransfer) : (s.record b).inflight = s.inflight := rfl
@[simp] theorem State.record_drawReq (b : BusTransfer) : (s.record b).drawReq = s.drawReq := rfl
@[simp] theorem State.record_host (b : BusTransfer) : (s.record b).host = { s.host with trace := s.host.trace ++ [b] } := rfl
@[simp] theorem State.record_events (b : BusTransfer) : (s.record b).events = s.events := rfl
@[simp] theorem State.record_tick (b : BusTransfer) : (s.record b).tick = s.tick := rfl

end Sys2Proof.Machine
end

