-- ==== Sys2Proof/Laws/Ops.lean ====
section
/-! SUPPORT. One lemma per shared operation that says once everything it can do; later proofs cite these and do not unfold. -/

namespace Sys2Proof.Machine

/-! ### How a command's evaluation changes the state -/

@[simp] theorem conclude_result (s : State) (r0 r1 : Word) :
    s.conclude (.result r0 r1) = s.complete r0 r1 false 0 := rfl

@[simp] theorem conclude_error (s : State) (e : ErrCode) :
    s.conclude (.error e) = s.complete 0 0 true e.code := rfl

@[simp] theorem conclude_needs (s : State) (r : DrawRequest) : s.conclude (.needs r) = s.issueDraw r := rfl

@[simp] theorem completeIllegal_eq (s : State) : s.completeIllegal = s.complete 0 0 true 0x01 := rfl

/-- The value a command computes on a state: its function applied to the registers it reads and the answers so far. -/
def outcomeOf (i : Instr) (s : State) : CmdOutcome :=
  match i with
  | .modexp => modexpOutcome s.opa s.opb s.opc
  | .mulmod => mulmodOutcome s.opa s.opb s.opc
  | .witness => witnessOutcome s.opa s.opb
  | .mrtest => mrtestOutcome s.opa s.opb s.answers
  | .isprime => isprimeOutcome s.opa s.answers
  | .enc => encOutcome s.opa s.opb s.opc s.opd s.ope
  | .encr => encrOutcome s.opa s.opb s.opc s.opd s.answers
  | .dec => decOutcome s.opa s.opc s.opd s.ope

/-- Every command always answers a next state, the one its outcome leaves. -/
theorem exec_eq (i : Instr) (s : State) : exec i s = .next (s.conclude (outcomeOf i s)) := by
  cases i <;> rfl

/-- What an evaluation can leave: a completion, or a request at the entropy port. -/
theorem conclude_cases (s : State) (o : CmdOutcome) :
    (∃ r0 r1, s.conclude o = s.complete r0 r1 false 0) ∨
    (∃ e : ErrCode, s.conclude o = s.complete 0 0 true e.code) ∨
    (∃ r, o = .needs r ∧ s.conclude o = s.issueDraw r) := by
  cases o with
  | result r0 r1 => exact .inl ⟨r0, r1, rfl⟩
  | error e => exact .inr (.inl ⟨e, rfl⟩)
  | needs r => exact .inr (.inr ⟨r, rfl, rfl⟩)

/-! ### Operands and the register port -/

theorem writeOperand_cases (s written : State) :
    (s.busy = true ∧ s.writeOperand written = s.raiseOvr) ∨ (s.busy = false ∧ s.writeOperand written = written) := by
  unfold State.writeOperand
  cases h : s.busy <;> simp

/-- Everything a write to a named register can leave (20_memory.md rule R73). -/
theorem writeReg_cases (s : State) (r : Reg) (v : Word) :
    s.writeReg r v = s ∨ s.writeReg r v = s.setIE v ∨ s.writeReg r v = s.acknowledge v ∨
    s.writeReg r v = s.raiseOvr ∨
    (s.busy = false ∧
      (s.writeReg r v = s.accept v ∨ s.writeReg r v = { s with opa := v } ∨ s.writeReg r v = { s with opb := v } ∨
        s.writeReg r v = { s with opc := v } ∨ s.writeReg r v = { s with opd := v } ∨
        s.writeReg r v = { s with ope := v })) := by
  cases r <;> cases h : s.busy <;> simp [State.writeReg, State.writeOperand, h]

@[simp] theorem ofOffset_offset (r : Reg) : Reg.ofOffset r.offset = some r := by
  cases r <;> decide

@[simp] theorem readWindow_offset (s : State) (r : Reg) : s.readWindow r.offset = s.x r := by
  simp [State.readWindow]

@[simp] theorem writeWindow_offset (s : State) (r : Reg) (v : Word) : s.writeWindow r.offset v = s.writeReg r v := by
  simp [State.writeWindow]

/-- A write by offset does what the write to the register there does, or nothing. -/
theorem writeWindow_cases (s : State) (off : Nat) (v : Word) :
    s.writeWindow off v = s ∨ ∃ r, s.writeWindow off v = s.writeReg r v := by
  unfold State.writeWindow
  cases Reg.ofOffset off with
  | none => exact .inl rfl
  | some r => exact .inr ⟨r, rfl⟩

theorem admittedOffset_base (off : Nat) (h8 : off % 8 = 0) (hlt : off < 0x100) :
    admittedOffset (Config.baseAddr + off) 8 = some off := by
  simp [admittedOffset, h8, windowSize, hlt]

/-- An access of another requester changes nothing, writes one window offset, or is refused. -/
theorem busAccess_cases (s : State) (a : Access) :
    s.busAccess a = .next s ∨ (∃ off v, s.busAccess a = .next (s.writeWindow off v)) ∨
    ∃ addr n, s.busAccess a = .refused (.accessNotAdmitted addr n) ∧
      (a = .memRead addr n ∨ ∃ v, a = .memWrite addr n v) ∧ admittedOffset addr n = none := by
  cases a with
  | memRead addr n =>
    simp only [State.busAccess, State.memRead]
    cases h : admittedOffset addr n with
    | none => exact .inr (.inr ⟨addr, n, rfl, .inl rfl, h⟩)
    | some off => exact .inl rfl
  | memWrite addr n v =>
    simp only [State.busAccess, State.memWrite]
    cases h : admittedOffset addr n with
    | none => exact .inr (.inr ⟨addr, n, rfl, .inr ⟨v, rfl⟩, h⟩)
    | some off => exact .inr (.inl ⟨off, v, rfl⟩)

/-! ### The entropy port -/

/-- Everything an answer can leave: nothing, or the answer taken by the outstanding request. -/
theorem deliver_cases (s : State) (a : DrawAnswer) :
    s.deliver a = s ∨
    ∃ f r, s.inflight = some f ∧ s.drawReq = some r ∧ a.answers r = true ∧
      s.deliver a = { s with inflight := some ⟨f.word, f.answers ++ [a]⟩, drawReq := none } := by
  unfold State.deliver
  cases hf : s.inflight with
  | none => exact .inl rfl
  | some f =>
    cases hr : s.drawReq with
    | none => exact .inl rfl
    | some r =>
      by_cases ha : a.answers r = true
      · exact .inr ⟨f, r, rfl, rfl, ha, by simp [ha]⟩
      · exact .inl (by simp [ha])

/-! ### The engine, the host, and the step -/

/-- Everything the engine agent's turn can leave. -/
theorem engineTurn_cases (s : State) :
    (engineTurn s = .next s ∧ (s.inflight = none ∨ ∃ r, s.drawReq = some r)) ∨
    (∃ f i, s.inflight = some f ∧ s.drawReq = none ∧ decode f.word = .ok i ∧
      engineTurn s = .next (s.conclude (outcomeOf i s))) ∨
    (∃ f e, s.inflight = some f ∧ s.drawReq = none ∧ decode f.word = .error e ∧
      engineTurn s = .next (s.complete 0 0 true 0x01)) := by
  unfold engineTurn
  cases hf : s.inflight with
  | none => exact .inl ⟨rfl, .inl rfl⟩
  | some f =>
    cases hr : s.drawReq with
    | some r => exact .inl ⟨rfl, .inr ⟨r, rfl⟩⟩
    | none =>
      cases hd : decode f.word with
      | ok i => exact .inr (.inl ⟨f, i, rfl, rfl, hd, by simp [hd, exec_eq]⟩)
      | error e => exact .inr (.inr ⟨f, e, rfl, rfl, hd, by simp [hd]⟩)

theorem programLabels_count (p : List HostLine) (l : Nat) : (programLabels p).count l = p.count (.label l) := by
  induction p with
  | nil => rfl
  | cons x xs ih => cases x <;> simp [programLabels, List.count_cons, ih]

/-- A label that stands in one line and no other is found there. -/
theorem labelLine_of_unique {p : List HostLine} {l n : Nat} (hn : p[n]? = some (.label l))
    (hu : ∀ m, p[m]? = some (.label l) → m = n) : labelLine p l = some n := by
  have h1 : p.count (.label l) = 1 := by
    induction p generalizing n with
    | nil => nomatch hn
    | cons x xs ih =>
      cases n with
      | zero =>
        obtain rfl : x = .label l := by simpa using hn
        rw [List.count_cons_self, List.count_eq_zero.2]
        intro hm
        obtain ⟨m, hm⟩ := List.getElem?_of_mem hm
        exact absurd (hu (m + 1) (by simpa using hm)) (by omega)
      | succ n =>
        have hx : x ≠ .label l := by rintro rfl; exact absurd (hu 0 rfl) (by omega)
        rw [List.count_cons_of_ne hx]
        exact ih (by simpa using hn) fun m hm => by have := hu (m + 1) (by simpa using hm); omega
  obtain ⟨hlt, hx⟩ := List.getElem?_eq_some_iff.1 hn
  rw [labelLine, programLabels_count, if_pos h1, List.findIdx?_eq_some_iff_getElem]
  refine ⟨hlt, by simp [hx], fun j hj hh => ?_⟩
  have := hu j (List.getElem?_eq_some_iff.2 ⟨by omega, by simpa using hh⟩)
  omega

/-- A branch goes on at the line found, or is refused where the label does not stand exactly once. -/
theorem branch_cases (s : State) (l : Nat) :
    (∃ n, s.branch l = .next (s.gotoLine n)) ∨
    (s.branch l = .refused (.labelNotUnique l) ∧
      ¬ ∃ k : Nat, s.host.prog[k]? = some (.label l) ∧ ∀ m, s.host.prog[m]? = some (.label l) → m = k) := by
  unfold State.branch
  cases h : labelLine s.host.prog l with
  | none => exact .inr ⟨rfl, fun ⟨k, hk, hu⟩ => nomatch h ▸ labelLine_of_unique hk hu⟩
  | some n => exact .inl ⟨n, rfl⟩

/-- Everything one host line can leave: a register write, a change of the host agent alone, or a refused branch. -/
theorem execLine_cases (l : HostLine) (s : State) :
    (∃ r e, l = .wr r e ∧ execLine l s = .next
      (((s.writeReg r (e.word s.host.vars)).record (.w r.offset (e.word s.host.vars))).nextLine)) ∨
    (∃ h : HostAgent, execLine l s = .next { s with host := h } ∧ h.prog = s.host.prog ∧
      (h.vars = s.host.vars ∨ ∃ x v, h.vars = varSet s.host.vars x v)) ∨
    ∃ n, execLine l s = .refused (.labelNotUnique n) ∧
      ((∃ e, l = .bnz e n ∧ e.eval s.host.vars ≠ 0) ∨ l = .b n) ∧
      ¬ ∃ k : Nat, s.host.prog[k]? = some (.label n) ∧ ∀ m, s.host.prog[m]? = some (.label n) → m = k := by
  cases l with
  | wr r e => exact .inl ⟨r, e, rfl, rfl⟩
  | rd r t => exact .inr (.inl ⟨_, rfl, rfl, .inr ⟨t, s.x r, rfl⟩⟩)
  | label n => exact .inr (.inl ⟨_, rfl, rfl, .inl rfl⟩)
  | set t e => exact .inr (.inl ⟨_, rfl, rfl, .inr ⟨t, e.word s.host.vars, rfl⟩⟩)
  | bnz e n =>
    by_cases h : e.eval s.host.vars = 0
    · exact .inr (.inl ⟨s.nextLine.host, by simp only [execLine, h, if_true]; rfl, rfl, .inl rfl⟩)
    · have hl : execLine (.bnz e n) s = s.branch n := by simp [execLine, h]
      rcases branch_cases s n with ⟨m, hm⟩ | ⟨hm, hn⟩
      · exact .inr (.inl ⟨(s.gotoLine m).host, by rw [hl, hm]; rfl, rfl, .inl rfl⟩)
      · exact .inr (.inr ⟨n, by rw [hl, hm], .inl ⟨e, rfl, h⟩, hn⟩)
  | b n =>
    rcases branch_cases s n with ⟨m, hm⟩ | ⟨hm, hn⟩
    · exact .inr (.inl ⟨_, hm, rfl, .inl rfl⟩)
    · exact .inr (.inr ⟨n, hm, .inr rfl, hn⟩)
  | halt => exact .inr (.inl ⟨s.host, rfl, rfl, .inl rfl⟩)

/-- The host agent's turn is its next line, or nothing after the last. -/
theorem hostTurn_cases (s : State) :
    (∃ l, s.host.prog[s.host.line]? = some l ∧ hostTurn s = execLine l s) ∨
    (s.host.prog[s.host.line]? = none ∧ hostTurn s = .next s) := by
  unfold hostTurn
  cases h : s.host.prog[s.host.line]? with
  | none => exact .inr ⟨rfl, rfl⟩
  | some l => exact .inl ⟨l, rfl, rfl⟩

/-- A step is the next event, in the state it was taken from. -/
theorem step_eq (s : State) : step s = perform s.nextEvent s.taken := by
  unfold step State.nextEvent State.taken
  cases s.events <;> rfl

/-- Taking an event from where it waited touches nothing else. -/
theorem taken_eq (s : State) : s.taken = { s with events := s.taken.events, tick := s.taken.tick } := by
  unfold State.taken
  cases s.events <;> rfl

/-- No step ends in a fault: there is none (60_exceptions.md rule R200). -/
theorem step_not_fault (s : State) (r : Fault) : step s ≠ .fault r := nomatch r

end Sys2Proof.Machine
end

