-- ==== Sys2Proof/Laws/PerInstr.lean ====
section
/-! SUPPORT. What holds of every command as syntax, one lemma per constructor. -/

namespace Sys2Proof.Laws.Encoding

/-- A command is well formed, its word is legal by 30_encoding.md rule R91, and the decoder reads it back from the word,
from its byte lanes and from the opcode table's bits. -/
def Statement (i : Instr) : Prop :=
  i.wf = true ∧ legalWord (encode i) = true ∧ decode (encode i) = .ok i ∧
    decodeBytes (byteLanes (encode i)) = .ok i ∧ decodeTableWord 64 (encode i).toNat = some i

theorem modexp : Statement .modexp := by
  refine ⟨rfl, ?_, rfl, rfl, rfl⟩
  decide

theorem mulmod : Statement .mulmod := by
  refine ⟨rfl, ?_, rfl, rfl, rfl⟩
  decide

theorem witness : Statement .witness := by
  refine ⟨rfl, ?_, rfl, rfl, rfl⟩
  decide

theorem mrtest : Statement .mrtest := by
  refine ⟨rfl, ?_, rfl, rfl, rfl⟩
  decide

theorem isprime : Statement .isprime := by
  refine ⟨rfl, ?_, rfl, rfl, rfl⟩
  decide

theorem enc : Statement .enc := by
  refine ⟨rfl, ?_, rfl, rfl, rfl⟩
  decide

theorem encr : Statement .encr := by
  refine ⟨rfl, ?_, rfl, rfl, rfl⟩
  decide

theorem dec : Statement .dec := by
  refine ⟨rfl, ?_, rfl, rfl, rfl⟩
  decide

end Sys2Proof.Laws.Encoding
end

