-- ==== Sys2Proof/Laws/Run.lean ====
section
/-! SUPPORT. Runs, one step at a time, and the one induction over them. -/

namespace Sys2Proof.Machine

/-- A run of any core, one step at a time. -/
theorem core_run_succ (M : Host.Core) (k : Nat) (s t : M.State) :
    M.run (k + 1) s = .next t ↔ ∃ u, M.step s = .next u ∧ M.run k u = .next t := by
  rw [Host.Core.run]
  cases M.step s with
  | next u => simp
  | fault r => simp
  | refused r => simp

theorem runs_zero {s t : State} : Runs 0 s t ↔ s = t :=
  ⟨Host.Outcome.next.inj, congrArg _⟩

theorem runs_succ {k : Nat} {s t : State} : Runs (k + 1) s t ↔ ∃ u, step s = .next u ∧ Runs k u t :=
  core_run_succ Sys2Proof.core k s t

theorem along_head {k : Nat} {s : State} {P : State → Prop} (h : Along (k + 1) s P) : P s :=
  h 0 s (Nat.succ_pos k) (runs_zero.2 rfl)

theorem along_tail {k : Nat} {s u : State} {P : State → Prop} (h : Along (k + 1) s P) (hs : step s = .next u) :
    Along k u P :=
  fun j v hj hv => h (j + 1) v (Nat.succ_lt_succ hj) (runs_succ.2 ⟨u, hs, hv⟩)

/-- What holds at the start and is kept by every step from a state met on the way holds at the end. -/
theorem run_induction {P Q : State → Prop} (hstep : ∀ s t, P s → Q s → step s = .next t → P t) :
    ∀ k s t, P s → Runs k s t → Along k s Q → P t := by
  intro k
  induction k with
  | zero => intro s t hp hr _; exact runs_zero.1 hr ▸ hp
  | succ k ih =>
    intro s t hp hr ha
    obtain ⟨u, hu, hr'⟩ := runs_succ.1 hr
    exact ih u t (hstep s u hp (along_head ha) hu) hr' (along_tail ha hu)

end Sys2Proof.Machine
end

