-- ==== Sys2Proof/Laws/Vars.lean ====
section
/-! SUPPORT. The host variables: read after write, and the one form every assignment keeps. -/

namespace Sys2Proof.Machine

@[simp] theorem varGet_nil (t : Nat) : varGet [] t = 0#64 := rfl

@[simp] theorem varGet_cons (k : Nat) (w : Word) (rest : List (Nat × Word)) (t : Nat) :
    varGet ((k, w) :: rest) t = if k = t then w else varGet rest t := rfl

theorem varsWf_cons {k : Nat} {w : Word} {rest : List (Nat × Word)} :
    varsWf ((k, w) :: rest) = true ↔
      w ≠ 0#64 ∧ (∀ p ∈ rest.head?, k < p.1) ∧ varsWf rest = true := by
  cases rest with
  | nil => simp [varsWf]
  | cons p rest => simp [varsWf, and_assoc]

theorem varsWf_tail {p : Nat × Word} {rest : List (Nat × Word)} (h : varsWf (p :: rest) = true) :
    varsWf rest = true := (varsWf_cons.1 h).2.2

/-- In the one form, every name after the first is larger than it. -/
theorem varsWf_lt {k : Nat} {w : Word} {rest : List (Nat × Word)} (h : varsWf ((k, w) :: rest) = true) :
    ∀ p ∈ rest, k < p.1 := by
  induction rest generalizing k w with
  | nil => simp
  | cons q rest ih =>
    obtain ⟨-, hq, ht⟩ := varsWf_cons.1 h
    have hkq : k < q.1 := hq q (by simp)
    intro p hp
    rcases List.mem_cons.1 hp with rfl | hp
    · exact hkq
    · exact lt_trans hkq (ih ht p hp)

theorem varGet_eq_zero {vars : List (Nat × Word)} {t : Nat} (h : ∀ p ∈ vars, t < p.1) : varGet vars t = 0#64 := by
  induction vars with
  | nil => rfl
  | cons p rest ih =>
    have := h p (by simp)
    rw [varGet_cons, if_neg (by omega), ih (fun q hq => h q (by simp [hq]))]

/-- A variable reads as the value just assigned to it. -/
theorem varGet_varSet_same {vars : List (Nat × Word)} (h : varsWf vars = true) (t : Nat) (v : Word) :
    varGet (varSet vars t v) t = v := by
  induction vars with
  | nil => by_cases hv : v = 0#64 <;> simp [varSet, hv]
  | cons p rest ih =>
    obtain ⟨k, w⟩ := p
    have hlt := varsWf_lt h
    simp only [varSet]
    by_cases h1 : t < k
    · by_cases hv : v = 0#64
      · simp only [h1, hv, if_true]
        exact varGet_eq_zero (fun q hq => by
          rcases List.mem_cons.1 hq with rfl | hq
          · exact h1
          · exact lt_trans h1 (hlt q hq))
      · simp [h1, hv]
    · by_cases h2 : t = k
      · subst h2
        by_cases hv : v = 0#64
        · simp only [lt_irrefl, hv, if_true, if_false]
          exact varGet_eq_zero hlt
        · simp [hv]
      · simp only [h1, h2, if_false, varGet_cons, if_neg (Ne.symm h2)]
        exact ih (varsWf_tail h)

/-- An assignment leaves every other variable alone. -/
theorem varGet_varSet_other {t u : Nat} (hne : u ≠ t) (vars : List (Nat × Word)) (v : Word) :
    varGet (varSet vars t v) u = varGet vars u := by
  induction vars with
  | nil => by_cases hv : v = 0#64 <;> simp [varSet, hv, Ne.symm hne]
  | cons p rest ih =>
    obtain ⟨k, w⟩ := p
    simp only [varSet]
    by_cases h1 : t < k
    · by_cases hv : v = 0#64 <;> simp [h1, hv, Ne.symm hne]
    · by_cases h2 : t = k
      · subst h2
        by_cases hv : v = 0#64 <;> simp [hv, Ne.symm hne]
      · simp only [h1, h2, if_false, varGet_cons, ih]

theorem varSet_head {vars : List (Nat × Word)} {t : Nat} {v : Word} {k : Nat} (hk : k < t)
    (h : ∀ p ∈ vars.head?, k < p.1) (hw : varsWf vars = true) : ∀ p ∈ (varSet vars t v).head?, k < p.1 := by
  cases vars with
  | nil => by_cases hv : v = 0#64 <;> simp [varSet, hv, hk]
  | cons q rest =>
    obtain ⟨j, w⟩ := q
    have hj : k < j := h (j, w) (by simp)
    have hlt := varsWf_lt hw
    simp only [varSet]
    by_cases h1 : t < j
    · by_cases hv : v = 0#64 <;> simp [h1, hv, hk, hj]
    · by_cases h2 : t = j
      · subst h2
        by_cases hv : v = 0#64
        · simp only [lt_irrefl, hv, if_true, if_false]
          intro p hp
          exact lt_trans hk (hlt p (List.mem_of_mem_head? hp))
        · simp [hv, hk]
      · simp [h1, h2, hj]

/-- Every assignment keeps the one form. -/
theorem varSet_wf {vars : List (Nat × Word)} (h : varsWf vars = true) (t : Nat) (v : Word) :
    varsWf (varSet vars t v) = true := by
  induction vars with
  | nil => by_cases hv : v = 0#64 <;> simp [varSet, hv, varsWf]
  | cons p rest ih =>
    obtain ⟨k, w⟩ := p
    obtain ⟨hw, hhd, ht⟩ := varsWf_cons.1 h
    simp only [varSet]
    by_cases h1 : t < k
    · by_cases hv : v = 0#64
      · simpa [h1, hv] using h
      · simp only [h1, hv, if_true, if_false]
        exact varsWf_cons.2 ⟨hv, by simp [h1], h⟩
    · by_cases h2 : t = k
      · subst h2
        by_cases hv : v = 0#64
        · simpa [hv] using ht
        · simp only [lt_irrefl, hv, if_true, if_false]
          exact varsWf_cons.2 ⟨hv, hhd, ht⟩
      · simp only [h1, h2, if_false]
        exact varsWf_cons.2 ⟨hw, varSet_head (by omega) hhd ht, ih ht⟩

end Sys2Proof.Machine
end

