-- ==== Sys2Proof/Laws/Step.lean ====
section
/-! SUPPORT. Once and for all: everything one step can do, and what the step does at each kind of event. -/

namespace Sys2Proof.Machine

/-! ### Taking the event -/

section
variable (s : State)

@[simp] theorem taken_ctrlIE : s.taken.ctrlIE = s.ctrlIE := by rw [taken_eq]
@[simp] theorem taken_busy : s.taken.busy = s.busy := by rw [taken_eq]
@[simp] theorem taken_done : s.taken.done = s.done := by rw [taken_eq]
@[simp] theorem taken_err : s.taken.err = s.err := by rw [taken_eq]
@[simp] theorem taken_ovr : s.taken.ovr = s.ovr := by rw [taken_eq]
@[simp] theorem taken_errcode : s.taken.errcode = s.errcode := by rw [taken_eq]
@[simp] theorem taken_lastop : s.taken.lastop = s.lastop := by rw [taken_eq]
@[simp] theorem taken_opa : s.taken.opa = s.opa := by rw [taken_eq]
@[simp] theorem taken_opb : s.taken.opb = s.opb := by rw [taken_eq]
@[simp] theorem taken_opc : s.taken.opc = s.opc := by rw [taken_eq]
@[simp] theorem taken_opd : s.taken.opd = s.opd := by rw [taken_eq]
@[simp] theorem taken_ope : s.taken.ope = s.ope := by rw [taken_eq]
@[simp] theorem taken_res0 : s.taken.res0 = s.res0 := by rw [taken_eq]
@[simp] theorem taken_res1 : s.taken.res1 = s.res1 := by rw [taken_eq]
@[simp] theorem taken_inflight : s.taken.inflight = s.inflight := by rw [taken_eq]
@[simp] theorem taken_drawReq : s.taken.drawReq = s.drawReq := by rw [taken_eq]
@[simp] theorem taken_host : s.taken.host = s.host := by rw [taken_eq]

@[simp] theorem taken_answers : s.taken.answers = s.answers := by simp [State.answers]

@[simp] theorem taken_outcomeOf (i : Instr) : outcomeOf i s.taken = outcomeOf i s := by
  cases i <;> simp [outcomeOf]

@[simp] theorem taken_x (r : Reg) : s.taken.x r = s.x r := by
  cases r <;> simp [State.x, State.ctrlWord, State.statusWord]

end

/-- The reads do not see the host agent. -/
@[simp] theorem answers_with_host (s : State) (h : HostAgent) : ({ s with host := h } : State).answers = s.answers := rfl

/-! ### The port -/

/-- An admitted offset is the address less the base. -/
theorem admittedOffset_some {addr n off : Nat} (h : admittedOffset addr n = some off) :
    n = 8 ∧ addr = Config.baseAddr + off ∧ off % 8 = 0 ∧ off < 0x100 := by
  unfold admittedOffset at h
  split at h
  · rename_i hc
    obtain ⟨h8, hle, hmod, hlt⟩ := hc
    obtain rfl := Option.some.inj h
    exact ⟨h8, by omega, hmod, by simpa [windowSize] using hlt⟩
  · cases h

theorem admittedOffset_none {addr n : Nat} (h : admittedOffset addr n = none) :
    ¬ (n = 8 ∧ ∃ off, addr = Config.baseAddr + off ∧ off % 8 = 0 ∧ off < 0x100) := by
  rintro ⟨rfl, off, rfl, h8, hlt⟩
  rw [admittedOffset_base off h8 hlt] at h
  cases h

/-- Only a register's own offset finds it. -/
theorem ofOffset_some {off : Nat} {r : Reg} (h : Reg.ofOffset off = some r) : off = r.offset := by
  have := List.find?_some h
  simpa using (beq_iff_eq.1 this).symm

theorem reg_offset_admitted (r : Reg) : admittedOffset (Config.baseAddr + r.offset) 8 = some r.offset := by
  apply admittedOffset_base <;> cases r <;> decide

@[simp] theorem memRead_reg (s : State) (r : Reg) : s.memRead (Config.baseAddr + r.offset) 8 = some (s.x r) := by
  simp [State.memRead, reg_offset_admitted]

@[simp] theorem memWrite_reg (s : State) (r : Reg) (v : Word) :
    s.memWrite (Config.baseAddr + r.offset) 8 v = some (s.writeReg r v) := by
  simp [State.memWrite, reg_offset_admitted]

/-! ### The step, event by event -/

theorem step_engine {s : State} (h : s.nextEvent = .engine) : step s = engineTurn s.taken := by
  rw [step_eq, h]; rfl

theorem step_reset {s : State} (h : s.nextEvent = .reset) : step s = .next s.taken.resetEngine := by
  rw [step_eq, h]; rfl

theorem step_entropy {s : State} {a : DrawAnswer} (h : s.nextEvent = .entropy a) :
    step s = .next (s.taken.deliver a) := by
  rw [step_eq, h]; rfl

theorem step_access {s : State} {a : Access} (h : s.nextEvent = .access a) : step s = s.taken.busAccess a := by
  rw [step_eq, h]; rfl

theorem step_host {s : State} (h : s.nextEvent = .host) : step s = hostTurn s.taken := by
  rw [step_eq, h]; rfl

/-- The host agent's step at a line of its program is that line. -/
theorem step_line {s : State} {l : HostLine} (h : s.nextEvent = .host) (hl : s.host.prog[s.host.line]? = some l) :
    step s = execLine l s.taken := by
  rw [step_host h, hostTurn, taken_host, hl]

/-- The engine's step with a legal command in flight and no request outstanding executes it. -/
theorem step_exec {s : State} {f : InFlight} {i : Instr} (h : s.nextEvent = .engine) (hf : s.inflight = some f)
    (hr : s.drawReq = none) (hd : decode f.word = .ok i) : step s = .next (s.taken.conclude (outcomeOf i s)) := by
  rw [step_engine h, engineTurn, taken_inflight, taken_drawReq, hf, hr]
  simp [hd, exec_eq]

/-- A write that reaches the port is the write of that register; the host program's own records aside, nothing else changes. -/
theorem step_write {s : State} {r : Reg} {v : Word} (h : NextWrites s r v) :
    ∃ a : HostAgent, step s = .next { s.taken.writeReg r v with host := a } ∧ a.vars = s.host.vars ∧ a.prog = s.host.prog := by
  have hhost : ∀ s : State, (s.writeReg r v).host = s.host := by
    intro s
    cases r <;> cases hb : s.busy <;> simp [State.writeReg, State.writeOperand, hb]
  rcases h with ⟨h, e, hl, rfl⟩ | h
  · refine ⟨((((s.taken.writeReg r (e.word s.host.vars)).record (.w r.offset (e.word s.host.vars))).nextLine)).host, ?_, ?_, ?_⟩
    · rw [step_line h hl]; simp [execLine]; rfl
    · simp [hhost]
    · simp [hhost]
  · refine ⟨s.host, ?_, rfl, rfl⟩
    rw [step_access h]
    simp only [State.busAccess, memWrite_reg]
    have : (s.taken.writeReg r v).host = s.host := by rw [hhost, taken_host]
    rw [← this]

/-- EVERYTHING A STEP CAN DO, when it answers a next state. -/
theorem step_cases {s t : State} (h : step s = .next t) :
    (s.nextEvent = .reset ∧ t = s.taken.resetEngine) ∨
    (∃ a, s.nextEvent = .entropy a ∧ t = s.taken.deliver a) ∨
    (∃ r v a, NextWrites s r v ∧ t = { s.taken.writeReg r v with host := a } ∧ a.vars = s.host.vars) ∨
    (∃ a, t = { s.taken with host := a } ∧ (s.nextEvent = .host ∨ ∃ b, s.nextEvent = .access b) ∧
      (a.vars = s.host.vars ∨ ∃ x v, a.vars = varSet s.host.vars x v)) ∨
    (s.nextEvent = .engine ∧ t = s.taken ∧ (s.inflight = none ∨ ∃ r, s.drawReq = some r)) ∨
    (∃ f i, s.nextEvent = .engine ∧ s.inflight = some f ∧ s.drawReq = none ∧ decode f.word = .ok i ∧
      t = s.taken.conclude (outcomeOf i s)) ∨
    (∃ f e, s.nextEvent = .engine ∧ s.inflight = some f ∧ s.drawReq = none ∧ decode f.word = .error e ∧
      t = s.taken.complete 0 0 true 0x01) := by
  cases he : s.nextEvent with
  | reset =>
    rw [step_reset he] at h
    exact .inl ⟨rfl, (Host.Outcome.next.inj h).symm⟩
  | entropy a =>
    rw [step_entropy he] at h
    exact .inr (.inl ⟨a, rfl, (Host.Outcome.next.inj h).symm⟩)
  | engine =>
    rw [step_engine he] at h
    rcases engineTurn_cases s.taken with ⟨hs, hq⟩ | ⟨f, i, hf, hr, hd, hs⟩ | ⟨f, e, hf, hr, hd, hs⟩ <;>
      rw [hs] at h <;> have ht := (Host.Outcome.next.inj h).symm
    · exact .inr (.inr (.inr (.inr (.inl ⟨rfl, ht, by simpa using hq⟩))))
    · exact .inr (.inr (.inr (.inr (.inr (.inl ⟨f, i, rfl, by simpa using hf, by simpa using hr, hd, by simpa using ht⟩)))))
    · exact .inr (.inr (.inr (.inr (.inr (.inr ⟨f, e, rfl, by simpa using hf, by simpa using hr, hd, ht⟩)))))
  | host =>
    rw [step_host he] at h
    rcases hostTurn_cases s.taken with ⟨l, hl, hs⟩ | ⟨-, hs⟩
    · rw [hs] at h
      rcases execLine_cases l s.taken with ⟨r, e, rfl, hx⟩ | ⟨a, hx, -, hv⟩ | ⟨n, hx, -⟩
      · have hw : NextWrites s r (e.word s.host.vars) := .inl ⟨he, e, by simpa using hl, rfl⟩
        obtain ⟨a, ha, hv, -⟩ := step_write hw
        rw [step_host he, hs, h] at ha
        exact .inr (.inr (.inl ⟨r, _, a, hw, Host.Outcome.next.inj ha, hv⟩))
      · rw [hx] at h
        exact .inr (.inr (.inr (.inl ⟨a, (Host.Outcome.next.inj h).symm, .inl rfl, by simpa using hv⟩)))
      · rw [hx] at h; cases h
    · rw [hs] at h
      refine .inr (.inr (.inr (.inl ⟨s.host, ?_, .inl rfl, .inl rfl⟩)))
      rw [← Host.Outcome.next.inj h]
      exact congrArg (fun a => { s.taken with host := a }) (taken_host s)
  | access b =>
    have hq : ∀ t', t' = s.taken → t' = { s.taken with host := s.host } := by
      rintro t' rfl
      exact congrArg (fun a => { s.taken with host := a }) (taken_host s)
    cases b with
    | memRead addr n =>
      rw [step_access he] at h
      simp only [State.busAccess, State.memRead] at h
      cases ho : admittedOffset addr n with
      | none => rw [ho] at h; cases h
      | some off =>
        rw [ho] at h
        exact .inr (.inr (.inr (.inl ⟨s.host, hq t (Host.Outcome.next.inj h).symm, .inr ⟨_, rfl⟩, .inl rfl⟩)))
    | memWrite addr n v =>
      have h0 := h
      rw [step_access he] at h
      simp only [State.busAccess, State.memWrite] at h
      cases ho : admittedOffset addr n with
      | none => rw [ho] at h; cases h
      | some off =>
        rw [ho] at h
        obtain ⟨rfl, rfl, -, -⟩ := admittedOffset_some ho
        cases hr : Reg.ofOffset off with
        | none =>
          have : t = s.taken := by
            simpa [State.writeWindow, hr] using (Host.Outcome.next.inj h).symm
          exact .inr (.inr (.inr (.inl ⟨s.host, hq t this, .inr ⟨_, rfl⟩, .inl rfl⟩)))
        | some r =>
          obtain rfl := ofOffset_some hr
          have hw : NextWrites s r v := .inr he
          obtain ⟨a, ha, hv, -⟩ := step_write hw
          rw [h0] at ha
          exact .inr (.inr (.inl ⟨r, v, a, hw, Host.Outcome.next.inj ha, hv⟩))

end Sys2Proof.Machine
end

