-- ==== Sys2Proof/Tests/Slice0.lean ====
section
/-! SUPPORT. The model's own tests, and for every obligation with hypotheses a concrete state and operands that meet them.
Every expected value is one of 95_test_vectors.md (its id stands in the test's name or comment) or of the cited rule. -/

namespace Sys2Proof.Tests

open Sys2Proof Sys2Proof.Machine

/-! ### Well-formedness, each check with an ill-formed term it refuses -/

theorem test_legalWord_refuses_reserved_bits : legalWord 0x0000000000000101 = false := by decide
theorem test_legalWord_refuses_opcode_zero : legalWord 0x0000000000000000 = false := by decide
theorem test_legalWord_refuses_opcode_nine : legalWord 0x0000000000000009 = false := by decide
theorem test_legalWord_takes_dec : legalWord 0x0000000000000008 = true := by decide
theorem test_labelsDistinct_refuses_a_label_twice :
    labelsDistinct [.label 1, .b 1, .label 1, .halt] = false := by decide
theorem test_targetsDeclared_refuses_an_undeclared_label :
    targetsDeclared [.label 1, .bnz (.var 0) 2, .halt] = false := by decide
theorem test_programWf_takes_wait : programWf (pseudoCmd .enc ++ pseudoWait 1 0 ++ pseudoAck ++ [.halt]) = true := by
  decide
theorem test_varsWf_refuses_a_listed_zero : varsWf [(0, 0)] = false := by decide
theorem test_varsWf_refuses_names_out_of_order : varsWf [(1, 5), (0, 7)] = false := by decide

/-! ### Decoding: every command's word written out from 30_encoding.md rules R90 and R92, `RSVD` then `OPCODE` -/

theorem test_decode_modexp :
    decode 0b00000000_00000000_00000000_00000000_00000000_00000000_00000000_00000001 = .ok .modexp := rfl
theorem test_decode_mulmod :
    decode 0b00000000_00000000_00000000_00000000_00000000_00000000_00000000_00000010 = .ok .mulmod := rfl
theorem test_decode_witness :
    decode 0b00000000_00000000_00000000_00000000_00000000_00000000_00000000_00000011 = .ok .witness := rfl
theorem test_decode_mrtest :
    decode 0b00000000_00000000_00000000_00000000_00000000_00000000_00000000_00000100 = .ok .mrtest := rfl
theorem test_decode_isprime :
    decode 0b00000000_00000000_00000000_00000000_00000000_00000000_00000000_00000101 = .ok .isprime := rfl
theorem test_decode_enc :
    decode 0b00000000_00000000_00000000_00000000_00000000_00000000_00000000_00000110 = .ok .enc := rfl
theorem test_decode_encr :
    decode 0b00000000_00000000_00000000_00000000_00000000_00000000_00000000_00000111 = .ok .encr := rfl
theorem test_decode_dec :
    decode 0b00000000_00000000_00000000_00000000_00000000_00000000_00000000_00001000 = .ok .dec := rfl
/-- V-I1, V-I2, V-I3. -/
theorem test_decode_undefined_opcodes :
    decode 0x00 = .error (.opcodeUndefined 0x00) ∧ decode 0x09 = .error (.opcodeUndefined 0x09) ∧
      decode 0xFF = .error (.opcodeUndefined 0xFF) := ⟨rfl, rfl, rfl⟩
/-- V-I4, V-I5, V-I6. -/
theorem test_decode_reserved_bits :
    decode 0x0000000000000101 = .error .rsvdNonzero ∧ decode 0x8000000000000000 = .error .rsvdNonzero ∧
      decode 0x0000000000000100 = .error .rsvdNonzero := ⟨rfl, rfl, rfl⟩
/-- Lane 0 carries bits [7:0] (20_memory.md rule R74); one word only (30_encoding.md rule R97). -/
theorem test_decodeBytes : decodeBytes [0x06, 0, 0, 0, 0, 0, 0, 0] = .ok .enc ∧
    decodeBytes [0, 0, 0, 0, 0, 0, 0, 0x06] = .error .rsvdNonzero ∧ decodeBytes [0x06] = .error (.notOneWord 1) :=
  ⟨rfl, rfl, rfl⟩
theorem test_decodeTableWord : decodeTableWord 64 3 = some .witness ∧ decodeTableWord 64 9 = none := ⟨rfl, rfl⟩
theorem test_encode_dec : encode .dec = 0x0000000000000008 := rfl
/-- No two rows of the opcode map overlap (30_encoding.md rule R92). -/
theorem test_opcode_rows_distinct : opcodeTable.Pairwise (fun a b => a.pattern ≠ b.pattern) := by decide

/-! ### The commands, on vectors of 95_test_vectors.md sections 2.1 to 2.8 -/

/-- A command in flight on these operands, with these entropy answers taken. -/
def inFlight (i : Instr) (a b c d e : Word) (answers : List DrawAnswer) : State :=
  { State.reset with
    opa := a, opb := b, opc := c, opd := d, ope := e
    busy := true
    lastop := (encode i).setWidth 8
    inflight := some ⟨encode i, answers⟩ }

/-- The state an outcome goes on in. -/
def nextOf : Host.Outcome State Fault Refusal → Option State
  | .next t => some t
  | _ => none

/-- What a host reads after one step of the command's execution: `STATUS`, `RES0`, `RES1`. -/
def report (i : Instr) (s : State) : Option (Word × Word × Word) :=
  (nextOf (exec i s)).map (fun t => (t.statusWord, t.res0, t.res1))

/-- The request outstanding after one step of the command's execution. -/
def requested (i : Instr) (s : State) : Option DrawRequest := (nextOf (exec i s)).bind State.drawReq

theorem test_mulmod_V_X8 :
    report .mulmod (inFlight .mulmod 0xFFFFFFFFFFFFFFFF 0xFFFFFFFFFFFFFFFF 0xFFFFFFFFFFFFFFC5 0 0 []) =
      some (0x00020002, 3364, 0) := by decide +kernel
theorem test_mulmod_V_X10 : report .mulmod (inFlight .mulmod 3 4 0 0 0 []) = some (0x00020206, 0, 0) := by
  decide +kernel
theorem test_modexp_V_M19 :
    report .modexp (inFlight .modexp 3 0x8000000000000000 0xFFFFFFFFFFFFFFFF 0 0 []) =
      some (0x00010002, 6446923178843478066, 0) := by decide +kernel
theorem test_modexp_V_M3 : report .modexp (inFlight .modexp 0 0 7 0 0 []) = some (0x00010002, 1, 0) := by
  decide +kernel
theorem test_witness_V_W11 : report .witness (inFlight .witness 25 7 0 0 0 []) = some (0x00030002, 0, 0) := by
  decide +kernel
theorem test_witness_V_W8 : report .witness (inFlight .witness 7 7 0 0 0 []) = some (0x00030002, 1, 0) := by
  decide +kernel
theorem test_mrtest_V_R5 :
    report .mrtest (inFlight .mrtest 25 3 0 0 0 [.ok 7, .ok 2]) = some (0x00040002, 1, 0) := by decide +kernel
theorem test_mrtest_V_R9 :
    report .mrtest (inFlight .mrtest 25 2 0 0 0 [.ok 7, .fail]) = some (0x00040806, 0, 0) := by decide +kernel
theorem test_isprime_V_P5 :
    report .isprime (inFlight .isprime 25 0 0 0 0 [.ok 7, .ok 18, .ok 2]) = some (0x00050002, 0, 0) := by
  decide +kernel
theorem test_isprime_V_P11 :
    report .isprime (inFlight .isprime 5 0 0 0 0 (List.replicate 24 (.ok 2) ++ [.fail])) =
      some (0x00050806, 0, 0) := by decide +kernel
theorem test_enc_V_E13 :
    report .enc (inFlight .enc 4294967311 3 3665255499 0xDEADBEEF 0xFFFFFFFFFFFFFFFF []) =
      some (0x00060002, 46495784, 4168273232) := by decide +kernel
theorem test_enc_V_E6 : report .enc (inFlight .enc 5 3 3665255499 0x10000000000 1 []) = some (0x00060506, 0, 0) := by
  decide +kernel
theorem test_encr_V_N4 :
    report .encr (inFlight .encr 4294967311 3 3665255499 0xDEADBEEF 12345 [.ok 4294967309]) =
      some (0x00070002, 2863311541, 3754066424) := by decide +kernel
/-- Section 2.7: the one draw is requested as `Draw(1, p - 2)`. -/
theorem test_encr_requests_its_draw :
    requested .encr (inFlight .encr 4294967311 3 3665255499 0xDEADBEEF 12345 []) = some ⟨1, 4294967309⟩ := by
  decide +kernel
theorem test_dec_V_D12 :
    report .dec (inFlight .dec 4294967311 3 123456789 1364779035 7610138354 []) =
      some (0x00080002, 0xDEADBEEF, 0) := by decide +kernel
theorem test_dec_V_D5 :
    report .dec (inFlight .dec 4294967311 3 123456789 1 4294967300 []) = some (0x00080706, 0, 0) := by
  decide +kernel

/-! ### The register port and the step -/

/-- V-S1: every offset at reset. -/
theorem test_reset_reads_V_S1 :
    (List.range 32).map (fun k => State.reset.readWindow (8 * k)) = 0x5043525950540007 :: List.replicate 31 0 := by
  decide
/-- V-S2. -/
theorem test_ctrl_V_S2 : (State.reset.writeWindow 0x08 0xFFFFFFFFFFFFFFFF).readWindow 0x08 = 1 := by decide
/-- V-S3. -/
theorem test_status_V_S3 :
    (({ State.reset with done := true, err := true, ovr := true, errcode := 1 } : State).writeWindow 0x10
      0xFFFFFFFFFFFFFFFF).readWindow 0x10 = 0x00000104 := by decide
/-- V-S4: `ID`, the results and a reserved offset ignore writes. -/
theorem test_ignored_writes_V_S4 :
    (((State.reset.writeWindow 0x00 5).writeWindow 0x48 5).writeWindow 0x50 5).writeWindow 0x58 5 = State.reset := by
  decide
/-- V-S5: an operand and a `CMD` write while busy. -/
theorem test_overrun_V_S5 :
    (((inFlight .modexp 23 391 55 0 0 []).writeWindow 0x28 9).writeWindow 0x18 2) =
      { inFlight .modexp 23 391 55 0 0 [] with ovr := true } := by decide
/-- V-S8: acceptance clears the last report and keeps the last results. -/
theorem test_acceptance_V_S8 :
    (({ State.reset with done := true, err := true, errcode := 2, lastop := 1 } : State).writeWindow 0x18 1).statusWord =
      0x00010001 := by decide
/-- V-S6, V-S7: the interrupt level. -/
theorem test_irq_V_S6 : ({ State.reset with ctrlIE := true, done := true } : State).irq = true ∧
    (({ State.reset with ctrlIE := true, done := true } : State).writeWindow 0x10 2).irq = false ∧
    (({ State.reset with done := true } : State).writeWindow 0x08 1).irq = true := by decide
/-- V-S9: reset while a draw is outstanding, and the late answer. -/
theorem test_reset_input_V_S9 :
    ({ inFlight .mrtest 9 1 0 0 0 [] with drawReq := some ⟨2, 7⟩ } : State).resetEngine = State.reset ∧
      State.reset.deliver (.ok 2) = State.reset := by decide
/-- V-I2: an illegal word is accepted and completes with `ILLEGAL_CMD`. -/
theorem test_illegal_word_V_I2 : (State.reset.accept 9).completeIllegal.statusWord = 0x00090106 := by decide
/-- The first step after reset runs the word placed: V-M26, `MODEXP` on zeros. -/
theorem test_first_step_runs_placed_word :
    (nextOf (step (State.reset.withFetchWord 64 1))).map State.statusWord = some 0x00010206 := by decide +kernel
/-- An entropy answer is taken by the outstanding request, once. -/
theorem test_answer_taken :
    ({ inFlight .mrtest 25 2 0 0 0 [.ok 7] with drawReq := some ⟨2, 23⟩ } : State).deliver (.ok 18) =
      inFlight .mrtest 25 2 0 0 0 [.ok 7, .ok 18] := by decide

/-! ### Host program lines (30_encoding.md rules R98, R99; programs P1 and P3) -/

/-- The next move is the host agent's, at the one line of its program. -/
def hostAt (l : HostLine) (s : State) : State := { s with events := [.host], host := ⟨[l], 0, [], []⟩ }

/-- P1: `wr OPB, 391` is `W 0x28 0x187`. -/
theorem test_line_wr :
    (nextOf (step (hostAt (.wr .opb (.lit 391)) State.reset))).map (fun t => (t.opb, t.host.trace, t.host.line)) =
      some (391, [.w 0x28 0x187], 1) := by decide
/-- P1: `rd STATUS, t` reads 0x10001 while `MODEXP` runs. -/
theorem test_line_rd :
    (nextOf (step (hostAt (.rd .status 4) (inFlight .modexp 23 391 55 0 0 [])))).map
      (fun t => (varGet t.host.vars 4, t.host.trace)) = some (0x10001, [.r 0x10 0x10001]) := by decide
/-- P3: `set code, (t >> 8) & 0xFF` with t = 0x30306 gives 3. -/
theorem test_host_expression :
    (HostExpr.and (.shr (.var 0) (.lit 8)) (.lit 0xFF)).eval [(0, 0x30306)] = 3 := by decide
/-- P1: `bnz t[0], L1` falls through when t = 0x10002. -/
theorem test_host_bit : (HostExpr.bit (.var 0) (.lit 0)).eval [(0, 0x10002)] = 0 := by decide
/-- 00_scope.md rule R14: `a || b`, with a in the more significant position. -/
theorem test_host_concat : (HostExpr.concat (.lit 3) 8 (.lit 6)).eval [] = 0x306 := by decide
/-- Where the right part does not fit its width the whole value is the free one (log entry 9). -/
theorem test_host_concat_too_wide :
    (HostExpr.concat (.lit 3) 2 (.lit 6)).eval [] = Config.openValue .concat [3, 2, 6] := rfl
/-- 00_scope.md rule R14: `v[hi:lo]`. -/
theorem test_host_slice : (HostExpr.slice (.lit 0x30306) (.lit 15) (.lit 8)).eval [] = 3 := by decide
/-- 40_modexp.md rule R117 writes `e[j]` with a variable j (log entry 8): bit 1 of 0x10002. -/
theorem test_host_bit_at_a_variable : (HostExpr.bit (.lit 0x10002) (.var 0)).eval [(0, 1)] = 1 := by decide
/-- P5: `b LOOP` goes on at the label. -/
theorem test_line_b :
    (nextOf (step { State.reset with
        events := [.host], host := ⟨[.label 7, .set 0 (.lit 1), .b 7], 2, [], []⟩ })).map (fun t => t.host.line) =
      some 0 := by decide
/-- 70_reset_and_hazards.md rule R257: the register values of an observation, by rising offset, while P1 runs. -/
theorem test_observation_registers : (inFlight .modexp 23 391 55 0 0 []).observation.2 =
    [0x5043525950540007, 0, 0x10001, 0, 23, 391, 55, 0, 0, 0, 0] := by decide
/-- 30_encoding.md rule R100. -/
theorem test_pseudo_instructions : pseudoCmd .dec = [.wr .cmd (.lit 8)] ∧ pseudoAck = [.wr .status (.lit 2)] ∧
    pseudoClrovr = [.wr .status (.lit 8)] ∧ (pseudoWait 1 0).length = 3 := by decide
theorem test_readValues : readValues [.w 0x20 23, .r 0x10 0x10002, .w 0x10 2, .r 0x48 12] = [0x10002, 12] := by decide

/-! ### Witnesses: for every obligation with hypotheses, states and operands that meet them, clause by clause -/

/-- The next move is this one. -/
def at' (e : Event) (s : State) : State := { s with events := [e] }

/-- An access of another requester that writes register `r`. -/
def writeOf (r : Reg) (v : Word) : Event := .access (.memWrite (Config.baseAddr + r.offset) 8 v)

/-- The host agent's next line writes `v` to register `r`. -/
theorem hostAt_writes (r : Reg) (n : Nat) (s : State) :
    NextWrites (hostAt (.wr r (.lit n)) s) r (BitVec.ofNat 64 n) := .inl ⟨rfl, .lit n, rfl, rfl⟩

theorem at'_writes (r : Reg) (v : Word) (s : State) : NextWrites (at' (writeOf r v) s) r v := .inr rfl

/-- `MODEXP` 23, 391, 55 in flight (program P1). -/
def busyP1 : State := inFlight .modexp 23 391 55 0 0 []

/-- `MRTEST` on 9 with one trial, waiting on its draw (V-S9). -/
def waiting : State := { inFlight .mrtest 9 1 0 0 0 [] with drawReq := some ⟨2, 7⟩ }

/-- The kernel evaluates a step to its next state. -/
theorem next_of {o : Host.Outcome State Fault Refusal} {t : State} (h : nextOf o = some t) : o = .next t := by
  cases o with
  | next s => exact congrArg _ (Option.some.inj h)
  | fault r => nomatch r
  | refused r => nomatch h

theorem witness_ResetLeavesDocumentedValues :
    (0 % 8 = 0 ∧ 0 < 0x100) ∧ (0xF8 % 8 = 0 ∧ 0xF8 < 0x100) := by decide

theorem witness_ResetInputDropsEverything :
    (at' .reset waiting).nextEvent = .reset ∧
    (at' .reset { waiting with ctrlIE := true, ovr := true }).nextEvent = .reset ∧
    (at' (.entropy (.ok 2)) State.reset).nextEvent = .entropy (.ok 2) ∧
    (at' (.entropy (.ok 2)) State.reset).inflight = none ∧ (at' (.entropy (.ok 2)) State.reset).drawReq = none :=
  ⟨rfl, rfl, rfl, rfl, rfl⟩

theorem witness_UnloadedCommandsRaiseErrors :
    State.reset.opa = 0 ∧ State.reset.opb = 0 ∧ State.reset.opc = 0 ∧ State.reset.opd = 0 ∧ State.reset.ope = 0 :=
  ⟨rfl, rfl, rfl, rfl, rfl⟩

theorem witness_StepExecutesDecodedCommand :
    (at' .engine busyP1).nextEvent = .engine ∧ (at' .engine busyP1).inflight = some ⟨encode .modexp, []⟩ ∧
    (at' .engine busyP1).drawReq = none ∧ decode (encode .modexp) = .ok .modexp := ⟨rfl, rfl, rfl, rfl⟩

theorem witness_ByteLanesCarryRegisterBits : (0 < 8 ∧ 0 < 8) ∧ (7 < 8 ∧ 7 < 8) := by decide

theorem witness_MulModIsExactRemainder : 1 ≤ (1 : Word).toNat ∧ 1 ≤ (0xFFFFFFFFFFFFFFFF : Word).toNat := by decide

theorem witness_ModExpIsPowerRemainder : 1 ≤ (1 : Word).toNat ∧ 1 ≤ (0xFFFFFFFFFFFFFFFF : Word).toNat := by decide

theorem inDomain_three : InDomain (3 : Word).toNat := by decide

/-- V-W13: 2 is a witness for 25; 24 = 2^3 * 3. -/
theorem isWitness_25_2 : IsWitness (25 : Word).toNat (2 : Word).toNat :=
  ⟨3, 3, rfl, rfl, by decide, by decide⟩

/-- V-W11: 7 is none, since 7^6 mod 25 = 24. -/
theorem not_isWitness_25_7 : ¬ IsWitness (25 : Word).toNat (7 : Word).toNat := by
  rintro ⟨k, q, h, hq, -, h2⟩
  have hk : k < 5 := by
    by_contra hk
    have h32 : 2 ^ 5 ≤ 2 ^ k := Nat.pow_le_pow_right (by decide) (by omega)
    have hq1 : 1 ≤ q := by omega
    have : 2 ^ 5 * 1 ≤ 2 ^ k * q := Nat.mul_le_mul h32 hq1
    have h24 : (25 : Word).toNat - 1 = 24 := rfl
    omega
  have h24 : (25 : Word).toNat - 1 = 24 := rfl
  rw [h24] at h
  interval_cases k
  · omega
  · omega
  · omega
  · obtain rfl : q = 3 := by omega
    exact h2 1 (by decide) rfl
  · omega

theorem witness_WitnessMatchesDefinition :
    (InDomain (25 : Word).toNat ∧ IsWitness (25 : Word).toNat (2 : Word).toNat) ∧
    (InDomain (25 : Word).toNat ∧ ¬ IsWitness (25 : Word).toNat (7 : Word).toNat) :=
  ⟨⟨by decide, isWitness_25_2⟩, ⟨by decide, not_isWitness_25_7⟩⟩

theorem witness_MulmodCommand :
    (inFlight .mulmod 3 4 0 0 0 []).opc = 0 ∧ (inFlight .mulmod 5 7 1 0 0 []).opc ≠ 0 := by decide

theorem witness_ModexpCommand : (inFlight .modexp 0 0 0 0 0 []).opc = 0 ∧ (inFlight .modexp 5 0 1 0 0 []).opc ≠ 0 := by
  decide

theorem witness_WitnessCommand :
    ¬ InDomain (inFlight .witness 2 1 0 0 0 []).opa.toNat ∧ ¬ InDomain (inFlight .witness 4 3 0 0 0 []).opa.toNat ∧
    InDomain (inFlight .witness 3 2 0 0 0 []).opa.toNat ∧
    (InDomain (inFlight .witness 25 2 0 0 0 []).opa.toNat ∧ IsWitness (25 : Word).toNat (2 : Word).toNat) ∧
    ¬ IsWitness (25 : Word).toNat (7 : Word).toNat :=
  ⟨by decide, by decide, by decide, ⟨by decide, isWitness_25_2⟩, not_isWitness_25_7⟩

theorem witness_MrtestCommand :
    ¬ InDomain (inFlight .mrtest 4 1 0 0 0 []).opa.toNat ∧ (inFlight .mrtest 3 5 0 0 0 []).opa = 3 ∧
    InDomain (25 : Word).toNat ∧ (25 : Word) ≠ 3 ∧
    NoWitnessAmong (25 : Word).toNat [7] ∧ IsWitness (25 : Word).toNat (2 : Word).toNat ∧
    -- all trials passed; the next answer outstanding; a failing one; a witness
    ((inFlight .mrtest 25 1 0 0 0 [.ok 7]).answers = [7].map .ok ++ [] ∧
      [(7 : Word)].length = (inFlight .mrtest 25 1 0 0 0 []).opb.toNat) ∧
    ((inFlight .mrtest 25 2 0 0 0 [.ok 7]).answers = [7].map .ok ++ [] ∧
      [(7 : Word)].length < (inFlight .mrtest 25 2 0 0 0 []).opb.toNat) ∧
    (inFlight .mrtest 25 2 0 0 0 [.ok 7, .fail]).answers = [7].map .ok ++ [.fail] ∧
    (inFlight .mrtest 25 2 0 0 0 [.ok 7, .ok 2]).answers = [7].map .ok ++ [.ok 2] := by
  refine ⟨by decide, rfl, by decide, by decide, ?_, isWitness_25_2, ⟨rfl, rfl⟩, ⟨rfl, by decide⟩, rfl, rfl⟩
  simp only [NoWitnessAmong, List.mem_singleton, forall_eq]
  exact not_isWitness_25_7

theorem witness_IsprimeCommand :
    ¬ InDomain (inFlight .isprime 2 0 0 0 0 []).opa.toNat ∧ (inFlight .isprime 3 0 0 0 0 []).opa = 3 ∧
    InDomain (25 : Word).toNat ∧ (25 : Word) ≠ 3 ∧
    NoWitnessAmong (25 : Word).toNat (List.replicate 25 7) ∧ NoWitnessAmong (25 : Word).toNat (List.replicate 24 7) ∧
    IsWitness (25 : Word).toNat (2 : Word).toNat ∧
    (inFlight .isprime 25 0 0 0 0 (List.replicate 25 (.ok 7))).answers = (List.replicate 25 7).map .ok ++ [] ∧
    (inFlight .isprime 25 0 0 0 0 (List.replicate 24 (.ok 7))).answers = (List.replicate 24 7).map .ok ++ [] ∧
    (inFlight .isprime 25 0 0 0 0 (List.replicate 24 (.ok 7) ++ [.fail])).answers =
      (List.replicate 24 7).map .ok ++ [.fail] ∧
    (inFlight .isprime 25 0 0 0 0 (List.replicate 24 (.ok 7) ++ [.ok 2])).answers =
      (List.replicate 24 7).map .ok ++ [.ok 2] := by
  refine ⟨by decide, rfl, by decide, by decide, ?_, ?_, isWitness_25_2, rfl, rfl, rfl, rfl⟩ <;>
    intro v hv <;> rw [List.eq_of_mem_replicate hv] <;> exact not_isWitness_25_7

theorem witness_DrawnVerdictsAreSound :
    let s := inFlight .mrtest 9 1 0 0 0 [.ok 2]
    let p := inFlight .isprime 9 0 0 0 0 [.ok 2]
    InDomain s.opa.toNat ∧ s.inflight = some ⟨encode .mrtest, [.ok 2]⟩ ∧
      (∀ a ∈ [DrawAnswer.ok 2], a.answers ⟨2, s.opa - 2⟩ = true) ∧
      Returned s (s.complete 1 0 false 0) 1 0 ∧ exec .mrtest s = .next (s.complete 1 0 false 0) ∧
      Returned p (p.complete 0 0 false 0) 0 0 ∧ exec .isprime p = .next (p.complete 0 0 false 0) := by
  refine ⟨by decide, rfl, by decide, ?_, next_of (by decide +kernel), ?_, next_of (by decide +kernel)⟩ <;>
    constructor <;> first | rfl | (constructor <;> rfl)

theorem witness_EncCommand :
    (inFlight .enc 0xFFFFFFFF 3 5 1 1 []).opa.toNat ≤ 0xFFFFFFFF ∧
    (0xFFFFFFFF < (inFlight .enc 0x100000000 3 5 0x100000000 1 []).opa.toNat ∧
      2 ^ 32 ≤ (inFlight .enc 0x100000000 3 5 0x100000000 1 []).opd.toNat) ∧
    (0xFFFFFFFF < (inFlight .enc 0x100000000 3 5 0xFFFFFFFF 1 []).opa.toNat ∧
      (inFlight .enc 0x100000000 3 5 0xFFFFFFFF 1 []).opd.toNat < 2 ^ 32) := by decide

theorem witness_EncrCommand :
    (inFlight .encr 0xFFFFFFFF 3 5 1 0 []).opa.toNat ≤ 0xFFFFFFFF ∧
    (0xFFFFFFFF < (inFlight .encr 0x100000000 3 5 0x100000000 0 []).opa.toNat ∧
      2 ^ 32 ≤ (inFlight .encr 0x100000000 3 5 0x100000000 0 []).opd.toNat) ∧
    (0xFFFFFFFF < (inFlight .encr 0x100000000 3 5 0xFFFFFFFF 0 []).opa.toNat ∧
      (inFlight .encr 0x100000000 3 5 0xFFFFFFFF 0 []).opd.toNat < 2 ^ 32 ∧
      (inFlight .encr 0x100000000 3 5 0xFFFFFFFF 0 []).answers = [] ∧
      (inFlight .encr 0x100000000 3 5 0xFFFFFFFF 0 [.fail]).answers = .fail :: [] ∧
      (inFlight .encr 0x100000000 3 5 0xFFFFFFFF 0 [.ok 1]).answers = .ok 1 :: []) := by decide

theorem witness_DecCommand :
    (inFlight .dec 0 3 0 1 1 []).opa.toNat = 0 ∧
    (inFlight .dec 7 3 7 1 1 []).opa.toNat ≤ (inFlight .dec 7 3 7 1 1 []).opc.toNat ∧
    -- V-D5 with x = p - 1: the block 4294967300 is too large; V-D9: the block is 6
    ((inFlight .dec 4294967311 3 4294967310 1 4294967300 []).opc.toNat <
        (inFlight .dec 4294967311 3 4294967310 1 4294967300 []).opa.toNat ∧
      4294967300 = 1 ^ (4294967311 - 4294967310 - 1) % 4294967311 * (4294967300 % 4294967311) % 4294967311 ∧
      0xFFFFFFFF < 4294967300) ∧
    ((inFlight .dec 7 3 2 3 5 []).opc.toNat < (inFlight .dec 7 3 2 3 5 []).opa.toNat ∧
      6 = 3 ^ (7 - 2 - 1) % 7 * (5 % 7) % 7 ∧ 6 ≤ 0xFFFFFFFF) :=
  ⟨rfl, by decide, ⟨by decide, by norm_num, by norm_num⟩, by decide, by norm_num, by norm_num⟩

/-- `a ^ e % m` by squaring, for the kernel to evaluate. -/
def powRemainder (a m : Nat) : Nat → Nat → Nat
  | 0, _ => 1 % m
  | k + 1, e =>
    let h := powRemainder a m k (e / 2)
    if e % 2 = 1 then h * h * a % m else h * h % m

theorem powRemainder_eq (a m : Nat) : ∀ k e, e < 2 ^ k → powRemainder a m k e = a ^ e % m := by
  intro k
  induction k with
  | zero => intro e he; obtain rfl : e = 0 := by omega
            rfl
  | succ k ih =>
    intro e he
    have hpow : a ^ (e / 2) * a ^ (e / 2) * a ^ (e % 2) = a ^ e := by
      rw [← pow_add, ← pow_add]; congr 1; omega
    simp only [powRemainder, ih (e / 2) (by omega)]
    rcases Nat.mod_two_eq_zero_or_one e with h | h <;> rw [h] at hpow ⊢
    · rw [if_neg (by decide), ← hpow, pow_zero, mul_one, ← Nat.mul_mod]
    · rw [if_pos rfl, ← hpow, pow_one, Nat.mul_mod (a ^ (e / 2) % m * _), ← Nat.mul_mod (a ^ (e / 2)), ← Nat.mul_mod]

theorem prime_of_remainders {p a : Nat} (h1 : 1 < p) (ha : a ^ (p - 1) % p = 1)
    (hd : ∀ q : Nat, q.Prime → q ∣ p - 1 → a ^ ((p - 1) / q) % p ≠ 1) : p.Prime := by
  have key : ∀ k, (a : ZMod p) ^ k = 1 ↔ a ^ k % p = 1 := by
    intro k
    rw [← Nat.cast_pow, ← Nat.cast_one (R := ZMod p), ZMod.natCast_eq_natCast_iff, Nat.ModEq, Nat.mod_eq_of_lt h1]
  exact lucas_primality p a ((key _).2 ha) fun q hq hqd h => hd q hq hqd ((key _).1 h)

/-- The test key's prime: p - 1 = 2 · 3^2 · 5 · 131 · 364289 and the root 3 (95_test_vectors.md). -/
theorem testKeyPrime : Nat.Prime (4294967311 : Word).toNat := by
  rw [show (4294967311 : Word).toNat = 4294967311 from rfl]
  refine prime_of_remainders (by norm_num) (a := 3) ?_ ?_
  · rw [← powRemainder_eq 3 4294967311 33 _ (by norm_num)]
    decide +kernel
  · intro q hq hqd
    rw [show 4294967311 - 1 = 2 * 3 ^ 2 * 5 * 131 * 364289 by norm_num] at hqd
    have hcases : q = 2 ∨ q = 3 ∨ q = 5 ∨ q = 131 ∨ q = 364289 := by
      simp only [hq.dvd_mul] at hqd
      rcases hqd with (((h | h) | h) | h) | h
      · exact .inl ((Nat.prime_dvd_prime_iff_eq hq (by norm_num)).1 h)
      · exact .inr (.inl ((Nat.prime_dvd_prime_iff_eq hq (by norm_num)).1 (hq.dvd_of_dvd_pow h)))
      · exact .inr (.inr (.inl ((Nat.prime_dvd_prime_iff_eq hq (by norm_num)).1 h)))
      · exact .inr (.inr (.inr (.inl ((Nat.prime_dvd_prime_iff_eq hq (by norm_num)).1 h))))
      · exact .inr (.inr (.inr (.inr ((Nat.prime_dvd_prime_iff_eq hq (by norm_num)).1 h))))
    rcases hcases with rfl | rfl | rfl | rfl | rfl <;>
      rw [← powRemainder_eq 3 4294967311 33 _ (by norm_num)] <;> decide +kernel

/-- The test key of 95_test_vectors.md with V-E1 (g = 3), and with g = 0. -/
theorem witness_ElGamalRoundTrip :
    let s := inFlight .enc 4294967311 3 3665255499 0xDEADBEEF 987654321 []
    let u := inFlight .dec 4294967311 3 123456789 1364779035 3315171043 []
    let z := inFlight .enc 4294967311 0 0 7 5 []
    Nat.Prime s.opa.toNat ∧ 0xFFFFFFFF < s.opa.toNat ∧ 1 ≤ u.opc.toNat ∧ u.opc.toNat ≤ s.opa.toNat - 1 ∧
      s.opc = modExp s.opb u.opc s.opa ∧ s.opd.toNat < 2 ^ 32 ∧
      exec .enc s = .next (s.complete 1364779035 3315171043 false 0) ∧
      u.opa = s.opa ∧ u.opd = 1364779035 ∧ u.ope = 3315171043 ∧ s.opb.toNat % s.opa.toNat ≠ 0 ∧
      z.opc = modExp z.opb u.opc z.opa ∧ z.opb.toNat % z.opa.toNat = 0 ∧ 1 ≤ z.ope.toNat := by
  exact ⟨testKeyPrime, by decide, by decide, by decide, by decide +kernel, by decide, next_of (by decide +kernel),
    rfl, rfl, rfl, by decide, by decide +kernel, by decide, by decide⟩

/-- With g = y = 1 every exponent gives the same pair. -/
theorem witness_DrawnExponentNeverExposed :
    let s := inFlight .encr 0x100000000 1 1 7 0 [.ok 1]
    let s' := inFlight .encr 0x100000000 1 1 7 0 [.ok 2]
    s.inflight = some ⟨encode .encr, .ok 1 :: []⟩ ∧
      s' = { s with inflight := some ⟨encode .encr, .ok 2 :: []⟩ } ∧
      exec .encr s = .next (s.complete 1 7 false 0) ∧ exec .encr s' = .next (s'.complete 1 7 false 0) ∧
      (s.complete 1 7 false 0).res0 = (s'.complete 1 7 false 0).res0 ∧
      (s.complete 1 7 false 0).res1 = (s'.complete 1 7 false 0).res1 :=
  ⟨rfl, rfl, next_of (by decide +kernel), next_of (by decide +kernel), rfl, rfl⟩

theorem witness_IllegalWordCompletes :
    ((0x0000000000000101 : Word).extractLsb' 8 56 ≠ 0) ∧
    ((0x0000000000000009 : Word).extractLsb' 0 8 ∉
      ([0x01, 0x02, 0x03, 0x04, 0x05, 0x06, 0x07, 0x08] : List Byte)) ∧
    Accepts (hostAt (.wr .cmd (.lit 9)) State.reset) 9 ∧
    (at' .engine { busyP1 with inflight := some ⟨9, []⟩ }).nextEvent = .engine ∧
    (at' .engine { busyP1 with inflight := some ⟨9, []⟩ }).drawReq = none :=
  ⟨by decide, by decide, ⟨hostAt_writes .cmd 9 _, rfl⟩, rfl, rfl⟩

theorem witness_AcceptanceOfCommandWord :
    (NextWrites (hostAt (.wr .cmd (.lit 1)) State.reset) .cmd 1 ∧ State.reset.busy = false) ∧
    (NextWrites (at' (writeOf .cmd 2) busyP1) .cmd 2 ∧ (at' (writeOf .cmd 2) busyP1).busy = true) :=
  ⟨⟨hostAt_writes .cmd 1 _, rfl⟩, at'_writes .cmd 2 _, rfl⟩

theorem witness_CompletionIsOneWholeUpdate :
    step (at' .engine busyP1) = .next ({ busyP1 with events := [] }.complete 12 0 false 0) ∧
    Completes (at' .engine busyP1) ({ busyP1 with events := [] }.complete 12 0 false 0) :=
  ⟨next_of (by decide +kernel), rfl, nofun, rfl⟩

/-- A command waiting on its draw meets the invariant. -/
theorem waiting_inv (es : List Event) : State.Inv { waiting with events := es } where
  inflight_iff_busy := rfl
  not_busy_and_done := by simp [waiting, inFlight, State.reset]
  err_iff_code := by simp [waiting, inFlight, State.reset]
  err_zero_results := by simp [waiting, inFlight, State.reset]
  code_legal := by simp [waiting, inFlight, State.reset]
  busy_no_err := by simp [waiting, inFlight, State.reset]
  lastop_in_flight := by rintro f hf; obtain rfl := Option.some.inj hf; rfl
  request_range := by
    rintro r hr
    obtain rfl := Option.some.inj hr
    exact ⟨_, rfl, show wordDrawRange (encode .mrtest) waiting = some ⟨2, 7⟩ by decide +kernel⟩
  answers_in_range := by rintro f hf; obtain rfl := Option.some.inj hf; nofun
  vars_wf := rfl

theorem witness_InvariantKeptByEveryStep :
    State.Inv (at' (.entropy (.ok 2)) waiting) ∧
    step (at' (.entropy (.ok 2)) waiting) =
      .next { inFlight .mrtest 9 1 0 0 0 [.ok 2] with events := [] } := ⟨waiting_inv _, rfl⟩

theorem witness_OnlyBadAccessesAndLabelsStop :
    (at' .engine busyP1).nextEvent = .engine ∧ (at' (.entropy .fail) busyP1).nextEvent = .entropy .fail ∧
    (at' .reset busyP1).nextEvent = .reset := ⟨rfl, rfl, rfl⟩

/-- A branch with its label goes on, and one without is refused. -/
theorem test_branch_stops_without_label :
    step (hostAt (.b 7) State.reset) = .refused (.labelNotUnique 7) ∧
    step (hostAt (.bnz (.lit 0) 7) State.reset) =
      .next { State.reset with host := ⟨[.bnz (.lit 0) 7], 1, [], []⟩ } := ⟨rfl, rfl⟩

theorem witness_RacingCommandWriteBothOrders :
    busyP1.inflight = some ⟨encode .modexp, []⟩ ∧ busyP1.drawReq = none ∧ busyP1.busy = true ∧
    decode (encode .modexp) = .ok .modexp ∧ drawRange .modexp busyP1 = none := ⟨rfl, rfl, rfl, rfl, rfl⟩

/-- V-S5: an operand write while busy, then the engine's turn to come. -/
def racing : State :=
  { busyP1 with events := [.host, .engine], host := ⟨[.wr .opb (.lit 9)], 0, [], []⟩ }

def raced : State :=
  { busyP1 with ovr := true, events := [.engine], host := ⟨[.wr .opb (.lit 9)], 1, [], [.w 0x28 9]⟩ }

theorem racing_runs : Runs 1 racing raced := runs_succ.2 ⟨raced, rfl, runs_zero.2 rfl⟩

theorem along_one {s : State} {P : State → Prop} (h : P s) : Along 1 s P := by
  intro j u hj hu
  obtain rfl : j = 0 := by omega
  exact runs_zero.1 hu ▸ h

theorem witness_NoStaleOperands :
    racing.busy = true ∧ racing.inflight = some ⟨encode .modexp, []⟩ ∧ Runs 1 racing raced ∧ raced.busy = true ∧
    Along 1 racing (fun u => u.busy = true ∧ u.nextEvent ≠ .reset) ∧
    decode (encode .modexp) = .ok .modexp ∧ drawRange .modexp racing = none ∧ raced.drawReq = none ∧
    raced.nextEvent = .engine :=
  ⟨rfl, rfl, racing_runs, rfl, along_one ⟨rfl, nofun⟩, rfl, rfl, rfl, rfl⟩

/-- An acknowledged result (the end of program P1), and a `CTRL` write next. -/
def acknowledged : State :=
  { State.reset with lastop := 1, res0 := 12, events := [.host], host := ⟨[.wr .ctrl (.lit 1)], 0, [], []⟩ }

theorem witness_ReportHoldsUntilNextAcceptance :
    State.Inv acknowledged ∧ acknowledged.busy = false ∧
    Runs 1 acknowledged { acknowledged with
      ctrlIE := true, events := [], host := ⟨[.wr .ctrl (.lit 1)], 1, [], [.w 0x08 1]⟩ } ∧
    Along 1 acknowledged (fun u => u.nextEvent ≠ .reset ∧ ∀ w, ¬ Accepts u w) := by
  refine ⟨?_, rfl, runs_succ.2 ⟨_, rfl, runs_zero.2 rfl⟩, along_one ⟨nofun, ?_⟩⟩
  · constructor <;> simp [acknowledged, State.reset, varsWf]
  · rintro w ⟨⟨-, e, he, -⟩ | h, -⟩
    · nomatch Option.some.inj he
    · nomatch h

theorem witness_EngineWaitsForTheEntropyPort :
    (at' .engine waiting).nextEvent = .engine ∧ (at' .engine waiting).drawReq = some ⟨2, 7⟩ := ⟨rfl, rfl⟩

theorem witness_UndrawnCommandsCompleteInOneTurn :
    let m := at' .engine busyP1
    let z := at' .engine (inFlight .mrtest 9 0 0 0 0 [])
    let x := at' .engine { busyP1 with inflight := some ⟨9, []⟩ }
    (m.nextEvent = .engine ∧ m.inflight = some ⟨encode .modexp, []⟩ ∧ m.drawReq = none ∧
      wordDrawRange (encode .modexp) m = none) ∧
    (z.nextEvent = .engine ∧ z.inflight = some ⟨encode .mrtest, []⟩ ∧ z.drawReq = none ∧
      decode (encode .mrtest) = .ok .mrtest ∧ z.opb = 0) ∧
    (x.nextEvent = .engine ∧ x.inflight = some ⟨9, []⟩ ∧ x.drawReq = none ∧ wordDrawRange 9 x = none) := by
  refine ⟨⟨rfl, rfl, rfl, rfl⟩, ⟨rfl, rfl, rfl, rfl, rfl⟩, rfl, rfl, rfl, rfl⟩

/-- V-R1, V-P11's length with P3's draws, and V-N1. -/
theorem witness_DrawingCommandsCompleteWhenAnswered :
    let m := { inFlight .mrtest 9 1 0 0 0 [] with events := drawSchedule [.ok 2] ++ [] }
    let p := { inFlight .isprime 7 0 0 0 0 [] with events := drawSchedule (List.replicate 25 (.ok 2)) ++ [] }
    let n := { inFlight .encr 4294967311 3 3665255499 7 0 [] with events := drawSchedule [.ok 987654321] ++ [] }
    ([DrawAnswer.ok 2].length = m.opb.toNat ∧ m.inflight = some ⟨encode .mrtest, []⟩ ∧ m.drawReq = none ∧
      ∀ a ∈ [DrawAnswer.ok 2], ∀ r, drawRange .mrtest m = some r → a.answers r = true) ∧
    ((List.replicate 25 (DrawAnswer.ok 2)).length = 25 ∧ p.inflight = some ⟨encode .isprime, []⟩ ∧ p.drawReq = none ∧
      ∀ a ∈ List.replicate 25 (DrawAnswer.ok 2), ∀ r, drawRange .isprime p = some r → a.answers r = true) ∧
    ([DrawAnswer.ok 987654321].length = 1 ∧ n.inflight = some ⟨encode .encr, []⟩ ∧ n.drawReq = none ∧
      ∀ a ∈ [DrawAnswer.ok 987654321], ∀ r, drawRange .encr n = some r → a.answers r = true) := by
  refine ⟨⟨rfl, rfl, rfl, ?_⟩, ⟨rfl, rfl, rfl, ?_⟩, rfl, rfl, rfl, ?_⟩
  · intro a ha r hr
    obtain rfl : a = .ok 2 := by simpa using ha
    obtain rfl : ⟨2, 7⟩ = r := Option.some.inj hr
    decide
  · intro a ha r hr
    obtain rfl : a = .ok 2 := List.eq_of_mem_replicate ha
    obtain rfl : ⟨2, 5⟩ = r := Option.some.inj hr
    decide
  · intro a ha r hr
    obtain rfl : a = .ok 987654321 := by simpa using ha
    obtain rfl : ⟨1, 4294967309⟩ = r := Option.some.inj hr
    decide

theorem witness_OnlyDrawingCommandsRequest :
    let s := at' .engine (inFlight .mrtest 9 1 0 0 0 [])
    let e := at' .engine (inFlight .encr 0x100000000 3 5 7 0 [])
    (step s = .next { s with events := [], drawReq := some ⟨2, 7⟩ } ∧ s.drawReq = none) ∧
    (step e = .next { e with events := [], drawReq := some ⟨1, 0xFFFFFFFE⟩ } ∧ e.drawReq = none) :=
  ⟨⟨rfl, rfl⟩, rfl, rfl⟩

theorem witness_AnswersAreTakenInOrder :
    ((at' (.entropy (.ok 7)) waiting).nextEvent = .entropy (.ok 7) ∧ waiting.inflight = some ⟨encode .mrtest, []⟩ ∧
      waiting.drawReq = some ⟨2, 7⟩ ∧ (DrawAnswer.ok 7).answers ⟨2, 7⟩ = true) ∧
    ((at' (.entropy (.ok 8)) waiting).nextEvent = .entropy (.ok 8) ∧ (DrawAnswer.ok 8).answers ⟨2, 7⟩ = false) ∧
    ((at' (.entropy .fail) State.reset).nextEvent = .entropy .fail ∧ State.reset.inflight = none) :=
  ⟨⟨rfl, rfl, rfl, by decide⟩, ⟨rfl, by decide⟩, rfl, rfl⟩

theorem witness_IdIsConstant :
    NextWrites (hostAt (.wr .id (.lit 5)) State.reset) .id 5 ∧ NextWrites (at' (writeOf .id 5) busyP1) .id 5 :=
  ⟨hostAt_writes .id 5 _, at'_writes .id 5 _⟩

/-- `CTRL` is written in every state: idle, and while busy (V-S10). -/
theorem witness_CtrlHoldsOneBit :
    NextWrites (hostAt (.wr .ctrl (.lit 0xFFFFFFFFFFFFFFFF)) State.reset) .ctrl 0xFFFFFFFFFFFFFFFF ∧
    NextWrites (hostAt (.wr .ctrl (.lit 0)) busyP1) .ctrl 0 :=
  ⟨hostAt_writes .ctrl 0xFFFFFFFFFFFFFFFF _, hostAt_writes .ctrl 0 _⟩

theorem witness_StatusWriteClearsByBits :
    NextWrites (hostAt (.wr .status (.lit 0x2)) State.reset) .status 0x2 ∧
    NextWrites (hostAt (.wr .status (.lit 0x8)) busyP1) .status 0x8 :=
  ⟨hostAt_writes .status 2 _, hostAt_writes .status 8 _⟩

/-- The first line of a program that starts `MODEXP`, and the state it leaves. -/
def starting : State := hostAt (.wr .cmd (.lit 1)) { State.reset with done := true, err := true, errcode := 2 }

def started : State :=
  { State.reset with
    busy := true, lastop := 1, inflight := some ⟨1, []⟩, events := []
    host := ⟨[.wr .cmd (.lit 1)], 1, [], [.w 0x18 1]⟩ }

theorem starting_accepts : Accepts starting 1 := ⟨hostAt_writes .cmd 1 _, rfl⟩

theorem starting_step : step starting = .next started := rfl

/-- P1's completion. -/
def completing : State := at' .engine busyP1

def completed : State := { busyP1 with events := [] }.complete 12 0 false 0

theorem completing_step : step completing = .next completed := next_of (by decide +kernel)

theorem completing_completes : Completes completing completed := ⟨rfl, nofun, rfl⟩

theorem resetting_step : step (at' .reset busyP1) = .next State.reset := rfl

theorem witness_BusyFromAcceptanceToCompletion :
    (step starting = .next started ∧ starting.busy = false ∧ started.busy = true ∧ Accepts starting 1) ∧
    (step completing = .next completed ∧ completing.busy = true ∧ completed.busy = false ∧
      Completes completing completed) ∧
    (step (at' .reset busyP1) = .next State.reset ∧ (at' .reset busyP1).nextEvent = .reset) ∧
    NextWrites (hostAt (.wr .status (.lit 1)) busyP1) .status 1 :=
  ⟨⟨rfl, rfl, rfl, starting_accepts⟩, ⟨completing_step, rfl, rfl, completing_completes⟩, ⟨rfl, rfl⟩, hostAt_writes .status 1 _⟩

theorem witness_DoneSetByCompletionAlone :
    (step completing = .next completed ∧ completing.done = false ∧ completed.done = true ∧
      Completes completing completed) ∧
    (step starting = .next started ∧ starting.done = true ∧ started.done = false ∧ Accepts starting 1) ∧
    (step (at' .reset { State.reset with done := true }) = .next State.reset ∧
      (at' .reset { State.reset with done := true }).nextEvent = .reset) ∧
    NextWrites (hostAt (.wr .status (.lit 2)) { State.reset with done := true }) .status 2 ∧
    NextWrites (hostAt (.wr .status (.lit 0)) { State.reset with done := true }) .status 0 :=
  ⟨⟨completing_step, rfl, rfl, completing_completes⟩, ⟨rfl, rfl, rfl, starting_accepts⟩, ⟨rfl, rfl⟩,
    hostAt_writes .status 2 _, hostAt_writes .status 0 _⟩

/-- V-M25, an error completion, beside P1's result. -/
theorem witness_ErrorReportOfTheLastCompletion :
    (step (at' .engine (inFlight .modexp 5 3 0 0 0 [])) =
        .next ({ inFlight .modexp 5 3 0 0 0 [] with events := [] }.complete 0 0 true 2) ∧
      Completes (at' .engine (inFlight .modexp 5 3 0 0 0 []))
        ({ inFlight .modexp 5 3 0 0 0 [] with events := [] }.complete 0 0 true 2) ∧
      ({ inFlight .modexp 5 3 0 0 0 [] with events := [] }.complete 0 0 true 2).err ≠
        (inFlight .modexp 5 3 0 0 0 []).err) ∧
    (step completing = .next completed ∧ Completes completing completed ∧ completed.err = false) ∧
    Accepts starting 1 ∧
    (step (at' .reset busyP1) = .next State.reset ∧ (at' .reset busyP1).nextEvent = .reset) ∧
    NextWrites (hostAt (.wr .status (.lit 2)) State.reset) .status 2 :=
  ⟨⟨next_of (by decide +kernel), ⟨rfl, nofun, rfl⟩, by decide⟩, ⟨completing_step, completing_completes, rfl⟩, starting_accepts, ⟨rfl, rfl⟩,
    hostAt_writes .status 2 _⟩

/-- The engine's turn on this word ends the command with the code; the answers taken are the given ones. -/
def RaisesCode (s : State) (code : Byte) : Prop :=
  step (at' .engine s) = .next ({ s with events := [] }.complete 0 0 true code) ∧
    Completes (at' .engine s) ({ s with events := [] }.complete 0 0 true code)

theorem raisesCode_of {s : State} {code : Byte} (hs : s.inflight ≠ none)
    (h : nextOf (step (at' .engine s)) = some ({ s with events := [] }.complete 0 0 true code)) : RaisesCode s code :=
  ⟨next_of h, rfl, hs, rfl⟩

/-- A result (P1), and a completion with each code: V-I2, V-M25, V-W29, V-E7, V-E5, V-D7, V-D5, V-R9, and a failing draw of
`ISPRIME` (V-P11) and of `ENCR` (V-N2). -/
theorem witness_ErrorCodesNameTheirCauses :
    (step completing = .next completed ∧ Completes completing completed ∧
      completing.inflight = some ⟨encode .modexp, []⟩ ∧ completed.err = false) ∧
    RaisesCode { inFlight .modexp 1 2 3 4 5 [] with inflight := some ⟨9, []⟩ } 1 ∧
    RaisesCode (inFlight .modexp 5 3 0 0 0 []) 2 ∧
    RaisesCode (inFlight .witness 4 3 0 0 0 []) 3 ∧
    RaisesCode (inFlight .enc 4294967311 3 3665255499 0x100000000 1 []) 4 ∧
    RaisesCode (inFlight .enc 0xFFFFFFFF 3 3665255499 1 1 []) 5 ∧
    RaisesCode (inFlight .dec 4294967311 3 4294967311 1364779035 3315171043 []) 6 ∧
    RaisesCode (inFlight .dec 4294967311 3 123456789 1 4294967300 []) 7 ∧
    RaisesCode (inFlight .mrtest 25 2 0 0 0 [.ok 7, .fail]) 8 ∧
    ([DrawAnswer.ok 7, .fail] = [7].map .ok ++ .fail :: [] ∧ InDomain (25 : Word).toNat ∧ (25 : Word) ≠ 3 ∧
      [(7 : Word)].length < (2 : Word).toNat ∧ NoWitnessAmong (25 : Word).toNat [7]) ∧
    RaisesCode (inFlight .isprime 5 0 0 0 0 (List.replicate 24 (.ok 2) ++ [.fail])) 8 ∧
    RaisesCode (inFlight .encr 4294967311 3 3665255499 0xDEADBEEF 0 [.fail]) 8 := by
  refine ⟨⟨completing_step, completing_completes, rfl, rfl⟩, ?_, ?_, ?_, ?_, ?_, ?_, ?_, ?_,
    ⟨rfl, by decide, by decide, by decide, ?_⟩, ?_, ?_⟩
  case refine_9 =>
    simp only [NoWitnessAmong, List.mem_singleton, forall_eq]
    exact not_isWitness_25_7
  all_goals exact raisesCode_of nofun (by decide +kernel)

/-- V-N8: `ENCR` does not read `OPE`; V-D2: `DEC` does not read `OPB`; V-P10: a failing draw. -/
theorem witness_UnlistedRegistersDoNotMatter :
    let n := inFlight .encr 4294967311 3 3665255499 0xDEADBEEF 0 [.ok 987654321]
    let n' := inFlight .encr 4294967311 3 3665255499 0xDEADBEEF 12345 [.ok 987654321]
    let p := inFlight .isprime 5 1 2 3 4 [.fail]
    let p' := inFlight .isprime 5 9 8 7 6 [.fail]
    let w := inFlight .isprime 5 1 2 3 4 []
    (n.drawReq = none ∧ n'.opa = n.opa ∧ n'.opb = n.opb ∧ n'.opc = n.opc ∧ n'.opd = n.opd ∧ n'.answers = n.answers ∧
      exec .encr n = .next (n.complete 1364779035 3315171043 false 0) ∧
      Returned n (n.complete 1364779035 3315171043 false 0) 1364779035 3315171043) ∧
    (p.drawReq = none ∧ p'.opa = p.opa ∧ p'.answers = p.answers ∧ exec .isprime p = .next (p.complete 0 0 true 8) ∧
      Raised p (p.complete 0 0 true 8) 8) ∧
    (w.drawReq = none ∧ exec .isprime w = .next (w.issueDraw ⟨2, 3⟩) ∧ Requested w (w.issueDraw ⟨2, 3⟩) 2 3) := by
  refine ⟨⟨rfl, rfl, rfl, rfl, rfl, rfl, next_of (by decide +kernel), ?_⟩,
    ⟨rfl, rfl, rfl, next_of (by decide +kernel), ?_⟩, rfl, next_of (by decide +kernel), ?_⟩ <;>
    constructor <;> first | rfl | (constructor <;> rfl)

theorem witness_LastopSetAtAcceptance :
    (Accepts starting 1 ∧ step starting = .next started ∧ started.lastop ≠ starting.lastop) ∧
    Accepts (hostAt (.wr .cmd (.lit 0x1FF)) State.reset) 0x1FF ∧
    NextWrites (hostAt (.wr .status (.lit 0xFF0000)) State.reset) .status 0xFF0000 :=
  ⟨⟨starting_accepts, rfl, by decide⟩, ⟨hostAt_writes .cmd 0x1FF _, rfl⟩, hostAt_writes .status 0xFF0000 _⟩

theorem witness_OverrunRaisedAndSticky :
    (.ope ∈ ([.cmd, .opa, .opb, .opc, .opd, .ope] : List Reg) ∧ busyP1.busy = true ∧
      NextWrites (hostAt (.wr .ope (.lit 9)) busyP1) .ope 9) ∧
    (step racing = .next raced ∧ racing.ovr = false ∧ raced.ovr = true) ∧
    (step (hostAt (.wr .status (.lit 8)) { State.reset with ovr := true }) =
        .next { State.reset with host := ⟨[.wr .status (.lit 8)], 1, [], [.w 0x10 8]⟩ } ∧
      (hostAt (.wr .status (.lit 8)) { State.reset with ovr := true }).ovr = true) ∧
    (NextWrites (hostAt (.wr .status (.lit 8)) { State.reset with ovr := true }) .status 8 ∧
      (8 : Word).getLsbD 3 = true) ∧
    (step (at' .reset { State.reset with ovr := true }) = .next State.reset ∧
      (at' .reset { State.reset with ovr := true }).nextEvent = .reset) :=
  ⟨⟨by decide, rfl, hostAt_writes .ope 9 _⟩, ⟨rfl, rfl, rfl⟩, ⟨rfl, rfl⟩, ⟨hostAt_writes .status 8 _, by decide⟩,
    rfl, rfl⟩

theorem witness_OperandRegistersBelongToTheHost :
    (.opa ∈ ([.opa, .opb, .opc, .opd, .ope] : List Reg) ∧
      NextWrites (hostAt (.wr .opa (.lit 23)) State.reset) .opa 23 ∧
      (hostAt (.wr .opa (.lit 23)) State.reset).busy = false) ∧
    (NextWrites (at' (writeOf .ope 9) busyP1) .ope 9 ∧ (at' (writeOf .ope 9) busyP1).busy = true) ∧
    (.ope ∈ ([.opa, .opb, .opc, .opd, .ope] : List Reg) ∧ busyP1.busy = true) ∧
    (step (hostAt (.wr .opa (.lit 23)) State.reset) =
        .next { State.reset with opa := 23, host := ⟨[.wr .opa (.lit 23)], 1, [], [.w 0x20 23]⟩ } ∧
      (23 : Word) ≠ State.reset.opa) :=
  ⟨⟨by decide, hostAt_writes .opa 23 _, rfl⟩, ⟨at'_writes .ope 9 _, rfl⟩, ⟨by decide, rfl⟩, rfl, by decide⟩

theorem witness_ResultRegistersWrittenByCompletions :
    (step completing = .next completed ∧ completed.res0 ≠ completing.res0 ∧ Completes completing completed) ∧
    (step (at' .reset { State.reset with res1 := 5 }) = .next State.reset ∧
      State.reset.res1 ≠ (at' .reset { State.reset with res1 := 5 }).res1) ∧
    NextWrites (hostAt (.wr .res0 (.lit 5)) State.reset) .res0 5 ∧
    NextWrites (hostAt (.wr .res1 (.lit 5)) busyP1) .res1 5 :=
  ⟨⟨completing_step, by decide +kernel, completing_completes⟩, ⟨rfl, by decide⟩, hostAt_writes .res0 5 _, hostAt_writes .res1 5 _⟩

/-- V-S6, V-S7. -/
theorem witness_InterruptLevel :
    (step (at' .engine { busyP1 with ctrlIE := true }) = .next { completed with ctrlIE := true } ∧
      (at' .engine { busyP1 with ctrlIE := true }).irq = false ∧ ({ completed with ctrlIE := true } : State).irq = true) ∧
    (step (hostAt (.wr .status (.lit 2)) { State.reset with ctrlIE := true, done := true }) =
        .next { State.reset with ctrlIE := true, host := ⟨[.wr .status (.lit 2)], 1, [], [.w 0x10 2]⟩ } ∧
      (hostAt (.wr .status (.lit 2)) { State.reset with ctrlIE := true, done := true }).irq = true ∧
      ({ State.reset with ctrlIE := true } : State).irq = false) :=
  ⟨⟨next_of (by decide +kernel), rfl, rfl⟩, next_of (by decide +kernel), rfl, rfl⟩

/-- The last admitted offset, and each way an access is not admitted. -/
theorem witness_OnlyAdmittedAccessesHaveMeaning :
    ((at' (.access (.memRead (Config.baseAddr + 0xF8) 8)) State.reset).nextEvent =
        .access (.memRead (Config.baseAddr + 0xF8) 8) ∧
      (8 = 8 ∧ ∃ off, Config.baseAddr + 0xF8 = Config.baseAddr + off ∧ off % 8 = 0 ∧ off < 0x100)) ∧
    ¬ (8 = 8 ∧ ∃ off, Config.baseAddr + 0x100 = Config.baseAddr + off ∧ off % 8 = 0 ∧ off < 0x100) ∧
    ¬ (8 = 8 ∧ ∃ off, Config.baseAddr + 0x21 = Config.baseAddr + off ∧ off % 8 = 0 ∧ off < 0x100) ∧
    ¬ (4 = 8 ∧ ∃ off, Config.baseAddr + 0x20 = Config.baseAddr + off ∧ off % 8 = 0 ∧ off < 0x100) := by
  refine ⟨⟨rfl, rfl, 0xF8, rfl, rfl, by decide⟩, ?_, ?_, nofun⟩
  · rintro ⟨-, off, h, -, hlt⟩; omega
  · rintro ⟨-, off, h, h8, -⟩; omega

/-- A `STATUS` poll while busy (P1), by the host and by another requester. -/
theorem witness_ReadsReturnRegistersAndChangeNothing :
    (hostAt (.rd .status 4) busyP1).nextEvent = .host ∧
    (hostAt (.rd .status 4) busyP1).host.prog[(hostAt (.rd .status 4) busyP1).host.line]? = some (.rd .status 4) ∧
    (at' (.access (.memRead (Config.baseAddr + Reg.status.offset) 8)) busyP1).nextEvent =
      .access (.memRead (Config.baseAddr + Reg.status.offset) 8) ∧
    step (at' (.access (.memRead (Config.baseAddr + Reg.status.offset) 8)) busyP1) = .next { busyP1 with events := [] } := by
  refine ⟨rfl, rfl, rfl, ?_⟩
  rw [step_access (a := .memRead (Config.baseAddr + Reg.status.offset) 8) rfl, State.busAccess, memRead_reg]
  rfl

theorem witness_ReservedOffsetsReadZeroIgnoreWrites :
    (0x58 % 8 = 0 ∧ 0x58 ≤ 0x58 ∧ 0x58 ≤ 0xF8) ∧ (0xF8 % 8 = 0 ∧ 0x58 ≤ 0xF8 ∧ 0xF8 ≤ 0xF8) ∧
    (at' (.access (.memWrite (Config.baseAddr + 0xF8) 8 5)) busyP1).nextEvent =
      .access (.memWrite (Config.baseAddr + 0xF8) 8 5) := ⟨by decide, by decide, rfl⟩

theorem witness_HostBusLines :
    ((hostAt (.wr .opb (.lit 391)) State.reset).nextEvent = .host ∧
      (hostAt (.wr .opb (.lit 391)) State.reset).host.prog[0]? = some (.wr .opb (.lit 391))) ∧
    (varsWf (hostAt (.rd .res0 1) State.reset).host.vars = true ∧
      (hostAt (.rd .res0 1) State.reset).nextEvent = .host ∧
      (hostAt (.rd .res0 1) State.reset).host.prog[0]? = some (.rd .res0 1)) := ⟨⟨rfl, rfl⟩, rfl, rfl, rfl⟩

/-- A host agent at line `n` of the loop `L0: set v0, 1; bnz v0, L0; b L0; halt`. -/
def looping (n : Nat) (vars : List (Nat × Word)) : State :=
  { State.reset with
    events := [.host]
    host := ⟨[.label 0, .set 0 (.lit 1), .bnz (.var 0) 0, .b 0, .halt], n, vars, []⟩ }

theorem witness_HostControlLines :
    (∀ n, (looping n []).nextEvent = .host) ∧ varsWf (looping 0 [(0, 1)]).host.vars = true ∧
    (looping 1 []).host.prog[1]? = some (.set 0 (.lit 1)) ∧ (looping 0 []).host.prog[0]? = some (.label 0) ∧
    ((looping 2 []).host.prog[2]? = some (.bnz (.var 0) 0) ∧ (HostExpr.var 0).eval (looping 2 []).host.vars = 0) ∧
    ((looping 2 [(0, 1)]).host.prog[2]? = some (.bnz (.var 0) 0) ∧
      (HostExpr.var 0).eval (looping 2 [(0, 1)]).host.vars ≠ 0) ∧
    (looping 3 []).host.prog[3]? = some (.b 0) ∧
    (∀ m, (looping 3 []).host.prog[m]? = some (.label 0) → m = 0) ∧
    (looping 4 []).host.prog[4]? = some .halt := by
  refine ⟨fun _ => rfl, rfl, rfl, rfl, ⟨rfl, rfl⟩, ⟨rfl, by decide⟩, rfl, ?_, rfl⟩
  intro m hm
  match m, hm with
  | 0, _ => rfl
  | 1, h | 2, h | 3, h | 4, h => nomatch Option.some.inj h
  | _ + 5, h => nomatch h

end Sys2Proof.Tests
end

/-! SUPPORT. The registers: what each register write leaves, what one step can do to them, and from that the
statements of 10_state.md. -/

namespace Sys2Proof.Machine

/-! ### Register values at reset and after a change of the agents -/

@[simp] theorem reset_ctrlIE : State.reset.ctrlIE = false := rfl
@[simp] theorem reset_busy : State.reset.busy = false := rfl
@[simp] theorem reset_done : State.reset.done = false := rfl
@[simp] theorem reset_ovr : State.reset.ovr = false := rfl

/-- The reads do not see the host agent. -/
theorem x_with_host (s : State) (a : HostAgent) (r : Reg) : ({ s with host := a } : State).x r = s.x r := by
  cases r <;> rfl

/-- 10_state.md rule R50: what an admitted read returns at reset, at every offset. -/
theorem readWindow_reset (off : Nat) : State.reset.readWindow off = if off = 0 then idValue else 0 := by
  cases hr : Reg.ofOffset off with
  | none =>
    have h0 : off ≠ 0 := by rintro rfl; cases hr
    simp [State.readWindow, hr, h0]
  | some r =>
    rw [ofOffset_some hr, readWindow_offset]
    cases r <;> rfl

/-! ### A register's read value -/

/-- `CTRL` shows `IE` in bit 0 and nothing else (10_state.md rule R34). -/
theorem ctrlWord_eq (s : State) : s.ctrlWord = if s.ctrlIE then 1 else 0 := by
  unfold State.ctrlWord
  cases s.ctrlIE <;> rfl

/-- The reserved bits of `STATUS`, [7:4] and [63:24], read 0 (10_state.md rule R41). -/
theorem statusWord_reserved (s : State) {i : Nat} (h : 4 ≤ i ∧ i < 8 ∨ 24 ≤ i) : s.statusWord.getLsbD i = false := by
  have flag : ∀ (b : Bool) (k : Nat), k < 4 → ((BitVec.ofBool b).setWidth 64 <<< k).getLsbD i = false := by
    intro b k hk
    simp [BitVec.getLsbD_ofBool]
    omega
  have byte : ∀ (b : Byte) (k : Nat), i < k ∨ k + 8 ≤ i → (b.setWidth 64 <<< k).getLsbD i = false := by
    intro b k hk
    rcases hk with hk | hk
    · simp [hk]
    · simp [BitVec.getLsbD_of_ge b (i - k) (by omega)]
  have busy := flag s.busy 0 (by omega)
  rw [BitVec.shiftLeft_zero] at busy
  simp only [State.statusWord, BitVec.getLsbD_or, busy, flag _ 1 (by omega), flag _ 2 (by omega), flag _ 3 (by omega),
    byte s.errcode 8 (by omega), byte s.lastop 16 (by omega), Bool.or_false]

/-- A `STATUS` write clears `DONE` by bit 1 (10_state.md rule R41). -/
theorem acknowledge_done_eq_ite (s : State) (v : Word) :
    (s.acknowledge v).done = if v.getLsbD 1 then false else s.done := by
  rw [State.acknowledge_done]
  cases v.getLsbD 1 <;> simp

/-- A `STATUS` write clears `OVR` by bit 3 (10_state.md rule R41). -/
theorem acknowledge_ovr_eq_ite (s : State) (v : Word) :
    (s.acknowledge v).ovr = if v.getLsbD 3 then false else s.ovr := by
  rw [State.acknowledge_ovr]
  cases v.getLsbD 3 <;> simp

/-- The interrupt level is 1 exactly when `IE` and `DONE` are (10_state.md rule R48). -/
theorem irq_eq_true_iff (s : State) : s.irq = true ↔ s.ctrlIE = true ∧ s.done = true := by
  simp [State.irq]

/-! ### The operand registers -/

/-- The operand registers (10_state.md rule R43). -/
abbrev operandRegs : List Reg := [.opa, .opb, .opc, .opd, .ope]

theorem mem_operandRegs {r : Reg} : r ∈ operandRegs ↔ r = .opa ∨ r = .opb ∨ r = .opc ∨ r = .opd ∨ r = .ope := by
  simp

/-- The value an idle write leaves in an operand register; a register of another kind is not stored. -/
def State.setOperand (s : State) (r : Reg) (v : Word) : State :=
  match r with
  | .opa => { s with opa := v }
  | .opb => { s with opb := v }
  | .opc => { s with opc := v }
  | .opd => { s with opd := v }
  | .ope => { s with ope := v }
  | _ => s

section
variable (s : State) (r : Reg) (v : Word)

@[simp] theorem setOperand_ctrlIE : (s.setOperand r v).ctrlIE = s.ctrlIE := by cases r <;> rfl
@[simp] theorem setOperand_busy : (s.setOperand r v).busy = s.busy := by cases r <;> rfl
@[simp] theorem setOperand_done : (s.setOperand r v).done = s.done := by cases r <;> rfl
@[simp] theorem setOperand_err : (s.setOperand r v).err = s.err := by cases r <;> rfl
@[simp] theorem setOperand_ovr : (s.setOperand r v).ovr = s.ovr := by cases r <;> rfl
@[simp] theorem setOperand_errcode : (s.setOperand r v).errcode = s.errcode := by cases r <;> rfl
@[simp] theorem setOperand_lastop : (s.setOperand r v).lastop = s.lastop := by cases r <;> rfl
@[simp] theorem setOperand_opa : (s.setOperand r v).opa = if r = .opa then v else s.opa := by cases r <;> rfl
@[simp] theorem setOperand_opb : (s.setOperand r v).opb = if r = .opb then v else s.opb := by cases r <;> rfl
@[simp] theorem setOperand_opc : (s.setOperand r v).opc = if r = .opc then v else s.opc := by cases r <;> rfl
@[simp] theorem setOperand_opd : (s.setOperand r v).opd = if r = .opd then v else s.opd := by cases r <;> rfl
@[simp] theorem setOperand_ope : (s.setOperand r v).ope = if r = .ope then v else s.ope := by cases r <;> rfl
@[simp] theorem setOperand_res0 : (s.setOperand r v).res0 = s.res0 := by cases r <;> rfl
@[simp] theorem setOperand_res1 : (s.setOperand r v).res1 = s.res1 := by cases r <;> rfl
@[simp] theorem setOperand_inflight : (s.setOperand r v).inflight = s.inflight := by cases r <;> rfl
@[simp] theorem setOperand_drawReq : (s.setOperand r v).drawReq = s.drawReq := by cases r <;> rfl

end

theorem setOperand_x_same (s : State) {r : Reg} (v : Word) (hr : r ∈ operandRegs) : (s.setOperand r v).x r = v := by
  rcases mem_operandRegs.1 hr with rfl | rfl | rfl | rfl | rfl <;> rfl

/-- Storing one operand register changes the read value of no other register. -/
theorem setOperand_x_of_ne (s : State) {r r' : Reg} (v : Word) (h : r' ≠ r) : (s.setOperand r v).x r' = s.x r' := by
  cases r' <;> simp [State.x, State.ctrlWord, State.statusWord, h.symm]

/-- An operand register reads the same when the operand fields are the same. -/
theorem x_operand_congr {s t : State} {r : Reg} (hr : r ∈ operandRegs)
    (h : t.opa = s.opa ∧ t.opb = s.opb ∧ t.opc = s.opc ∧ t.opd = s.opd ∧ t.ope = s.ope) : t.x r = s.x r := by
  obtain ⟨ha, hb, hc, hd, he⟩ := h
  rcases mem_operandRegs.1 hr with rfl | rfl | rfl | rfl | rfl <;> assumption

/-! ### What a register write leaves (20_memory.md rule R73) -/

section
variable (s : State) (v : Word)

@[simp] theorem writeReg_id : s.writeReg .id v = s := rfl
@[simp] theorem writeReg_res0 : s.writeReg .res0 v = s := rfl
@[simp] theorem writeReg_res1 : s.writeReg .res1 v = s := rfl
@[simp] theorem writeReg_ctrl : s.writeReg .ctrl v = s.setIE v := rfl
@[simp] theorem writeReg_status : s.writeReg .status v = s.acknowledge v := rfl

variable {s}

theorem writeReg_cmd_idle (hb : s.busy = false) : s.writeReg .cmd v = s.accept v := by
  simp [State.writeReg, hb]

variable {r : Reg}

theorem writeReg_operand_idle (hr : r ∈ operandRegs) (hb : s.busy = false) : s.writeReg r v = s.setOperand r v := by
  rcases mem_operandRegs.1 hr with rfl | rfl | rfl | rfl | rfl <;>
    simp [State.writeReg, State.writeOperand, State.setOperand, hb]

/-- The writes a busy engine discards (10_state.md rule R38). -/
theorem writeReg_busy (hr : r ∈ .cmd :: operandRegs) (hb : s.busy = true) : s.writeReg r v = s.raiseOvr := by
  rcases List.mem_cons.1 hr with rfl | ho
  · simp [State.writeReg, hb]
  · rcases mem_operandRegs.1 ho with rfl | rfl | rfl | rfl | rfl <;> simp [State.writeReg, State.writeOperand, hb]

end

/-! ### The steps that a write, an acceptance and a completion are -/

theorem sameOperands_iff {s t : State} :
    SameOperands s t ↔ t.ctrlIE = s.ctrlIE ∧ t.opa = s.opa ∧ t.opb = s.opb ∧ t.opc = s.opc ∧ t.opd = s.opd ∧
      t.ope = s.ope :=
  ⟨fun ⟨h1, h2, h3, h4, h5, h6⟩ => ⟨h1, h2, h3, h4, h5, h6⟩, fun ⟨h1, h2, h3, h4, h5, h6⟩ => ⟨h1, h2, h3, h4, h5, h6⟩⟩

theorem sameButOvr_iff {s t : State} {o : Bool} :
    SameButOvr s t o ↔ t.ovr = o ∧ t.inflight = s.inflight ∧ t.drawReq = s.drawReq ∧ t.busy = s.busy ∧
      t.done = s.done ∧ t.err = s.err ∧ t.errcode = s.errcode ∧ t.lastop = s.lastop ∧ t.res0 = s.res0 ∧
      t.res1 = s.res1 ∧ SameOperands s t :=
  ⟨fun ⟨h1, h2, h3, h4, h5, h6, h7, h8, h9, h10, h11⟩ => ⟨h1, h2, h3, h4, h5, h6, h7, h8, h9, h10, h11⟩,
    fun ⟨h1, h2, h3, h4, h5, h6, h7, h8, h9, h10, h11⟩ => ⟨h1, h2, h3, h4, h5, h6, h7, h8, h9, h10, h11⟩⟩

/-- Taking an event and moving the host agent on touches nothing of the engine. -/
theorem sameEngine_taken_host (s : State) (a : HostAgent) : SameEngine s { s.taken with host := a } := by
  simp [sameButOvr_iff, sameOperands_iff]

theorem completed_complete (s : State) (r0 r1 : Word) (e : Bool) (c : Byte) :
    Completed s (s.complete r0 r1 e c) r0 r1 e c :=
  ⟨rfl, rfl, rfl, rfl, rfl, rfl, rfl, rfl, rfl, rfl, ⟨rfl, rfl, rfl, rfl, rfl, rfl⟩, ⟨rfl, rfl, rfl⟩⟩

/-- The step of an acceptance (60_exceptions.md rule R205). -/
theorem step_accepts {s : State} {w : Word} (h : Accepts s w) :
    ∃ a, step s = .next { s.taken.accept w with host := a } := by
  obtain ⟨hw, hb⟩ := h
  obtain ⟨a, ha, -, -⟩ := step_write hw
  rw [writeReg_cmd_idle w (by simpa using hb)] at ha
  exact ⟨a, ha⟩

/-- The step of a write that a busy engine discards (10_state.md rule R38). -/
theorem step_overrun {s : State} {r : Reg} {v : Word} (hr : r ∈ .cmd :: operandRegs) (hb : s.busy = true)
    (hw : NextWrites s r v) : ∃ t, step s = .next t ∧ SameButOvr s t true := by
  obtain ⟨a, ha, -, -⟩ := step_write hw
  rw [writeReg_busy v hr (by simpa using hb)] at ha
  exact ⟨_, ha, by simp [sameButOvr_iff, sameOperands_iff]⟩

/-- The step of a write to a register that is not stored (10_state.md rules R33, R44). -/
theorem step_ignored_write {s : State} {r : Reg} {v : Word} (hr : ∀ u : State, u.writeReg r v = u)
    (hw : NextWrites s r v) : ∃ t, step s = .next t ∧ SameEngine s t := by
  obtain ⟨a, ha, -, -⟩ := step_write hw
  rw [hr] at ha
  exact ⟨_, ha, sameEngine_taken_host s a⟩

/-- A write is no turn of the engine. -/
theorem NextWrites.not_engine {s : State} {r : Reg} {v : Word} (h : NextWrites s r v) : s.nextEvent ≠ .engine := by
  rcases h with ⟨h, -⟩ | h <;> simp [h]

/-! ### What one step can do to the registers -/

/-- What a step from `s` leaves, by the rule of 10_state.md that lets it change a register. -/
inductive RegisterStep (s : State) : State → Prop
  /-- The reset input (rule R50). -/
  | reset (he : s.nextEvent = .reset) : RegisterStep s s.taken.resetEngine
  /-- The completion of the command in flight, with a result or with zeros and a code (rules R36, R37, R44). -/
  | completed (r0 r1 : Word) (err : Bool) (code : Byte) (he : s.nextEvent = .engine) (hf : s.inflight ≠ none)
      (hreport : (err = false ∧ code = 0) ∨ ∃ e : ErrCode, r0 = 0 ∧ r1 = 0 ∧ err = true ∧ code = e.code) :
      RegisterStep s (s.taken.complete r0 r1 err code)
  /-- The acceptance of a command word (rules R35, R40). -/
  | accepted (w : Word) (a : HostAgent) (h : Accepts s w) : RegisterStep s { s.taken.accept w with host := a }
  /-- A write that the busy engine discards (rule R38). -/
  | overrun (r : Reg) (v : Word) (a : HostAgent) (hw : NextWrites s r v) (hr : r ∈ .cmd :: operandRegs)
      (hb : s.busy = true) : RegisterStep s { s.taken.raiseOvr with host := a }
  /-- A write to `CTRL` (rule R34). -/
  | ctrl (v : Word) (a : HostAgent) (hw : NextWrites s .ctrl v) : RegisterStep s { s.taken.setIE v with host := a }
  /-- A write to `STATUS` (rule R41). -/
  | status (v : Word) (a : HostAgent) (hw : NextWrites s .status v) :
      RegisterStep s { s.taken.acknowledge v with host := a }
  /-- An idle write to an operand register (rule R43). -/
  | operand (r : Reg) (v : Word) (a : HostAgent) (hw : NextWrites s r v) (hr : r ∈ operandRegs)
      (hb : s.busy = false) : RegisterStep s { s.taken.setOperand r v with host := a }
  /-- No register changes, and a command in flight stays: an ignored write, a read, a host line without a write, a
  request, an answer. -/
  | quiet (a : HostAgent) (f : Option InFlight) (d : Option DrawRequest) (hf : f = none → s.inflight = none) :
      RegisterStep s { s.taken with host := a, inflight := f, drawReq := d }

/-- Taking an event, and moving the host agent on, changes no register. -/
theorem registerStep_host (s : State) (a : HostAgent) : RegisterStep s { s.taken with host := a } :=
  .quiet a s.taken.inflight s.taken.drawReq (by simp)

theorem registerStep_write {s : State} {r : Reg} {v : Word} (hw : NextWrites s r v) (a : HostAgent) :
    RegisterStep s { s.taken.writeReg r v with host := a } := by
  by_cases hr : r ∈ Reg.cmd :: operandRegs
  · cases hb : s.busy with
    | true =>
      rw [writeReg_busy v hr (by simpa using hb)]
      exact .overrun r v a hw hr hb
    | false =>
      rcases List.mem_cons.1 hr with rfl | ho
      · rw [writeReg_cmd_idle v (by simpa using hb)]
        exact .accepted v a ⟨hw, hb⟩
      · rw [writeReg_operand_idle v ho (by simpa using hb)]
        exact .operand r v a hw ho hb
  · cases r with
    | ctrl => exact .ctrl v a hw
    | status => exact .status v a hw
    | id | res0 | res1 => exact registerStep_host s a
    | cmd | opa | opb | opc | opd | ope => exact absurd hr (by decide)

theorem registerStep_conclude {s : State} {f : InFlight} (he : s.nextEvent = .engine) (hf : s.inflight = some f)
    (o : CmdOutcome) : RegisterStep s (s.taken.conclude o) := by
  have hne : s.inflight ≠ none := by simp [hf]
  cases o with
  | result r0 r1 => exact .completed r0 r1 false 0 he hne (.inl ⟨rfl, rfl⟩)
  | error e => exact .completed 0 0 true e.code he hne (.inr ⟨e, rfl, rfl, rfl, rfl⟩)
  | needs r => exact .quiet s.taken.host s.taken.inflight (some r) (by simp)

/-- Every step is one of the register steps. -/
theorem step_registers {s t : State} (h : step s = .next t) : RegisterStep s t := by
  rcases step_cases h with ⟨he, rfl⟩ | ⟨a, he, rfl⟩ | ⟨r, v, a, hw, rfl, -⟩ | ⟨a, rfl, -, -⟩ | ⟨-, rfl, -⟩ |
    ⟨f, i, he, hf, -, -, rfl⟩ | ⟨f, e, he, hf, -, -, rfl⟩
  · exact .reset he
  · rcases deliver_cases s.taken a with hd | ⟨f, r, -, -, -, hd⟩ <;> rw [hd]
    · exact registerStep_host s s.taken.host
    · exact .quiet s.taken.host _ none nofun
  · exact registerStep_write hw a
  · exact registerStep_host s a
  · exact registerStep_host s s.taken.host
  · exact registerStep_conclude he hf _
  · exact registerStep_conclude he hf (.error .illegalCmd)

/-- A completion writes results and report whole, and changes nothing else (60_exceptions.md rules R208 to R210). -/
theorem step_completes {s t : State} (h : step s = .next t) (hc : Completes s t) :
    (∃ r0 r1, Returned s.taken t r0 r1) ∨ ∃ e : ErrCode, Raised s.taken t e.code := by
  obtain ⟨he, hne, hnone⟩ := hc
  cases step_registers h with
  | completed r0 r1 err code _ _ hreport =>
    rcases hreport with ⟨rfl, rfl⟩ | ⟨e, rfl, rfl, rfl, rfl⟩
    · exact .inl ⟨r0, r1, completed_complete _ _ _ _ _⟩
    · exact .inr ⟨e, completed_complete _ _ _ _ _⟩
  | reset hr => simp [hr] at he
  | quiet a f d hf => exact absurd (hf hnone) hne
  | accepted w a hw => exact absurd he hw.1.not_engine
  | overrun r v a hw | ctrl v a hw | status v a hw | operand r v a hw => exact absurd he hw.not_engine

/-- `BUSY` and `DONE` after a completion. -/
theorem step_completes_flags {s t : State} (h : step s = .next t) (hc : Completes s t) :
    t.busy = false ∧ t.done = true := by
  rcases step_completes h hc with ⟨r0, r1, ht⟩ | ⟨e, ht⟩ <;> exact ⟨ht.busy, ht.done⟩

/-- Whatever step the reset event ends in is the reset of the engine. -/
theorem step_next_reset {s t : State} (h : step s = .next t) (he : s.nextEvent = .reset) : t = s.taken.resetEngine := by
  rw [step_reset he] at h
  exact (Host.Outcome.next.inj h).symm

/-! ### The statements of 10_state.md -/

/-- Settles O44: of the register steps, acceptance alone sets `BUSY`, and completion and reset alone clear it. -/
theorem busyFromAcceptanceToCompletion : Obligations.BusyFromAcceptanceToCompletion := by
  refine ⟨?_, ?_, ?_, ?_, ?_⟩
  · intro s t h hs ht
    cases step_registers h with
    | accepted w a hw => exact ⟨w, hw⟩
    | _ => simp [hs] at ht
  · intro s t h hs ht
    cases step_registers h with
    | completed r0 r1 err code he hf => exact .inl ⟨he, hf, rfl⟩
    | reset he => exact .inr he
    | _ => simp [hs] at ht
  · intro s w hw
    obtain ⟨a, ha⟩ := step_accepts hw
    exact ⟨_, ha, rfl⟩
  · rintro s t h (hc | he)
    · exact (step_completes_flags h hc).1
    · rw [step_next_reset h he]; rfl
  · intro s v hw
    obtain ⟨a, ha, -, -⟩ := step_write hw
    exact ⟨_, ha, by simp⟩

/-- Settles O45: of the register steps, completion alone sets `DONE`; acceptance, reset and a `STATUS` write with bit 1
alone clear it. -/
theorem doneSetByCompletionAlone : Obligations.DoneSetByCompletionAlone := by
  refine ⟨?_, ?_, ?_, ?_, ?_, ?_⟩
  · intro s t h hs ht
    cases step_registers h with
    | completed r0 r1 err code he hf => exact ⟨he, hf, rfl⟩
    | _ => simp [hs] at ht
  · intro s t h hc
    exact (step_completes_flags h hc).2
  · intro s t h hs ht
    cases step_registers h with
    | accepted w a hw => exact .inl ⟨w, hw⟩
    | reset he => exact .inr (.inl he)
    | status v a hw => exact .inr (.inr ⟨v, hw, by simpa [hs] using ht⟩)
    | _ => simp [hs] at ht
  · intro s w hw
    obtain ⟨a, ha⟩ := step_accepts hw
    exact ⟨_, ha, rfl⟩
  · intro s t h he
    rw [step_next_reset h he]; rfl
  · intro s v hw
    obtain ⟨a, ha, -, -⟩ := step_write hw
    exact ⟨_, ha, taken_done s ▸ acknowledge_done_eq_ite s.taken v⟩

/-- Settles O47: of the register steps, acceptance and reset alone touch `LASTOP`. -/
theorem lastopSetAtAcceptance : Obligations.LastopSetAtAcceptance := by
  refine ⟨?_, ?_, ?_⟩
  · intro s w hw
    obtain ⟨a, ha⟩ := step_accepts hw
    refine ⟨_, ha, ?_⟩
    rw [State.accept_lastop, BitVec.setWidth_eq_extractLsb' (by decide)]
  · intro s t h hne
    cases step_registers h with
    | accepted w a hw => exact .inl ⟨w, hw⟩
    | reset he => exact .inr he
    | _ => simp at hne
  · intro s v hw
    obtain ⟨a, ha, -, -⟩ := step_write hw
    exact ⟨_, ha, by simp⟩

/-- Settles O48: of the register steps, a discarded write alone sets `OVR`, and a `STATUS` write with bit 3 or reset alone
clears it. -/
theorem overrunRaisedAndSticky : Obligations.OverrunRaisedAndSticky := by
  refine ⟨?_, ?_, ?_, ?_, ?_⟩
  · intro s r v hr hb hw
    obtain ⟨t, ht, hsame⟩ := step_overrun hr hb hw
    exact ⟨t, ht, hsame, by rw [State.irq, hsame.operands.ctrlIE, hsame.done, State.irq]⟩
  · intro s t h hs ht
    cases step_registers h with
    | overrun r v a hw hr hb => exact ⟨hb, r, v, hr, hw⟩
    | _ => simp [hs] at ht
  · intro s t h hs ht
    cases step_registers h with
    | reset he => exact .inl he
    | status v a hw => exact .inr ⟨v, hw, by simpa [hs] using ht⟩
    | _ => simp [hs] at ht
  · intro s v hw hv
    obtain ⟨a, ha, -, -⟩ := step_write hw
    exact ⟨_, ha, by simp [hv]⟩
  · intro s t h he
    rw [step_next_reset h he]; rfl

/-- Settles O49: an idle write is stored and read back, a busy one is an overrun, and no other register step but reset
touches an operand register. -/
theorem operandRegistersBelongToTheHost : Obligations.OperandRegistersBelongToTheHost := by
  refine ⟨?_, ?_, ?_⟩
  · refine fun s r v hr hw => ⟨fun hb => ?_, fun hb => step_overrun (List.mem_cons_of_mem _ hr) hb hw⟩
    obtain ⟨a, ha, -, -⟩ := step_write hw
    rw [writeReg_operand_idle v hr (by simpa using hb)] at ha
    refine ⟨_, ha, ?_, fun r' hne => ?_, by simp, by simp⟩
    · rw [memRead_reg, x_with_host, setOperand_x_same _ v hr]
    · rw [x_with_host, setOperand_x_of_ne _ v hne, taken_x]
  · intro s r _
    exact memRead_reg s r
  · intro s t r hr h hne
    cases step_registers h with
    | reset he => exact .inl he
    | operand r' v a hw _ hb =>
      by_cases hrr : r = r'
      · exact .inr ⟨v, hrr ▸ hw, hb⟩
      · rw [x_with_host, setOperand_x_of_ne _ v hrr, taken_x] at hne
        exact absurd rfl hne
    | _ => exact absurd (x_operand_congr hr (by simp)) hne

/-- Settles O50: of the register steps, completion and reset alone touch the results, and a completion writes both. -/
theorem resultRegistersWrittenByCompletions : Obligations.ResultRegistersWrittenByCompletions := by
  refine ⟨?_, ?_, ?_, ?_, rfl, rfl⟩
  · intro s t h hne
    cases step_registers h with
    | completed r0 r1 err code he hf => exact .inl ⟨he, hf, rfl⟩
    | reset he => exact .inr he
    | _ => simp at hne
  · intro s t h hc
    exact (step_completes h hc).imp_right fun ⟨e, ht⟩ => ⟨e.code, ht⟩
  · rintro s v (hw | hw)
    · exact step_ignored_write (fun u => writeReg_res0 u v) hw
    · exact step_ignored_write (fun u => writeReg_res1 u v) hw
  · exact fun s => ⟨memRead_reg s .res0, memRead_reg s .res1⟩

/-- Settles O51: the level follows `IE` and `DONE`, so it moves only where a register step moves one of the two. -/
theorem interruptLevel : Obligations.InterruptLevel := by
  refine ⟨irq_eq_true_iff, rfl, ?_, ?_⟩
  · intro s t h hs ht
    rw [← Bool.not_eq_true, irq_eq_true_iff] at hs
    obtain ⟨hie, hdone⟩ := (irq_eq_true_iff t).1 ht
    cases step_registers h with
    | completed r0 r1 err code he hf => exact .inl ⟨⟨he, hf, rfl⟩, by simpa using hie⟩
    | ctrl v a hw => exact .inr ⟨v, hw, hie, by simpa using hdone⟩
    | status v a hw => exact absurd ⟨by simpa using hie, by simpa using (Bool.and_eq_true_iff.1 hdone).1⟩ hs
    | reset | accepted => simp at hie hdone
    | _ => exact absurd ⟨by simpa using hie, by simpa using hdone⟩ hs
  · intro s t h hs ht
    rw [irq_eq_true_iff] at hs
    rw [← Bool.not_eq_true, irq_eq_true_iff] at ht
    obtain ⟨hie, hdone⟩ := hs
    cases step_registers h with
    | status v a hw => exact .inl ⟨v, hw, by simpa [hie, hdone] using ht⟩
    | accepted w a hw => exact .inr (.inl ⟨w, hw⟩)
    | ctrl v a hw => exact .inr (.inr (.inl ⟨v, hw, by simpa [hdone] using ht⟩))
    | reset he => exact .inr (.inr (.inr he))
    | _ => simp [hie, hdone] at ht

/-- Settles O1: every field by evaluation, the window by the register at each offset. -/
theorem resetLeavesDocumentedValues : Obligations.ResetLeavesDocumentedValues :=
  ⟨fun off _ _ => readWindow_reset off, rfl, rfl, rfl, rfl, rfl, rfl, rfl, rfl, rfl, rfl, rfl, rfl, rfl, rfl, rfl, rfl,
    rfl⟩

/-- Settles O40: `ID` is the register at offset 0 and its write is ignored. -/
theorem idIsConstant : Obligations.IdIsConstant :=
  ⟨fun s => memRead_reg s .id, fun _ v hw => step_ignored_write (fun u => writeReg_id u v) hw⟩

/-- Settles O41: a `CTRL` write is `State.setIE` in every state. -/
theorem ctrlHoldsOneBit : Obligations.CtrlHoldsOneBit := by
  refine ⟨rfl, fun s => ?_, fun s v hw => ?_⟩
  · cases h : s.ctrlIE <;> simp [State.irq, h]
  · obtain ⟨a, ha, -, -⟩ := step_write hw
    refine ⟨_, ha, rfl, ?_, by simp [sameButOvr_iff, sameOperands_iff]⟩
    exact (memRead_reg _ .ctrl).trans (congrArg some (ctrlWord_eq _))

/-- Settles O42: a `STATUS` write is `State.acknowledge` in every state, and the reserved bits of the word are 0. -/
theorem statusWriteClearsByBits : Obligations.StatusWriteClearsByBits := by
  refine ⟨fun s v hw => ?_, fun s => ⟨_, memRead_reg s .status, ?_, ?_⟩⟩
  · obtain ⟨a, ha, -, -⟩ := step_write hw
    refine ⟨_, ha, taken_done s ▸ acknowledge_done_eq_ite s.taken v, sameButOvr_iff.2 ⟨?_, ?_⟩⟩
    · exact taken_ovr s ▸ acknowledge_ovr_eq_ite s.taken v
    · simp [sameOperands_iff]
  · refine BitVec.eq_of_getLsbD_eq fun i hi => ?_
    simpa [hi, State.x] using statusWord_reserved s (i := 4 + i) (by omega)
  · refine BitVec.eq_of_getLsbD_eq fun i hi => ?_
    simpa [hi, State.x] using statusWord_reserved s (i := 24 + i) (by omega)

end Sys2Proof.Machine

/-! SUPPORT. The register port: what an access does on each side of the admission test of 20_memory.md rule R71, and
from that the statements of 20_memory.md. -/

namespace Sys2Proof.Machine

/-! ### Admission -/

/-- The converse of `admittedOffset_none`. -/
theorem admittedOffset_eq_none {addr n : Nat}
    (h : ¬ (n = 8 ∧ ∃ off, addr = Config.baseAddr + off ∧ off % 8 = 0 ∧ off < 0x100)) :
    admittedOffset addr n = none := by
  cases ho : admittedOffset addr n with
  | none => rfl
  | some off =>
    obtain ⟨h8, hoff⟩ := admittedOffset_some ho
    exact absurd ⟨h8, off, hoff⟩ h

section
variable {s : State} {addr n off : Nat} {v : Word}

/-- The step of an admitted read by another requester (20_memory.md rule R72). -/
theorem step_read_admitted (ho : admittedOffset addr n = some off) (he : s.nextEvent = .access (.memRead addr n)) :
    step s = .next s.taken := by
  simp [step_access he, State.busAccess, State.memRead, ho]

/-- The step of an admitted write by another requester (20_memory.md rule R73). -/
theorem step_write_admitted (ho : admittedOffset addr n = some off)
    (he : s.nextEvent = .access (.memWrite addr n v)) : step s = .next (s.taken.writeWindow off v) := by
  simp [step_access he, State.busAccess, State.memWrite, ho]

/-- The step of an access that is not admitted (20_memory.md rule R76). -/
theorem step_access_refused (ho : admittedOffset addr n = none)
    (he : s.nextEvent = .access (.memRead addr n) ∨ s.nextEvent = .access (.memWrite addr n v)) :
    step s = .refused (.accessNotAdmitted addr n) := by
  rcases he with he | he
  · simp [step_access he, State.busAccess, State.memRead, ho]
  · simp [step_access he, State.busAccess, State.memWrite, ho]

end

/-! ### Reserved offsets (20_memory.md rule R75) -/

/-- The named registers end at 0x50. -/
theorem reg_offset_lt_reserved (r : Reg) : r.offset < 0x58 := by
  cases r <;> decide

theorem ofOffset_reserved {off : Nat} (h : 0x58 ≤ off) : Reg.ofOffset off = none := by
  cases hr : Reg.ofOffset off with
  | none => rfl
  | some r =>
    rw [ofOffset_some hr] at h
    exact absurd h (Nat.not_le.2 (reg_offset_lt_reserved r))

theorem readWindow_reserved (s : State) {off : Nat} (h : 0x58 ≤ off) : s.readWindow off = 0 := by
  simp [State.readWindow, ofOffset_reserved h]

theorem writeWindow_reserved (s : State) {off : Nat} (v : Word) (h : 0x58 ≤ off) : s.writeWindow off v = s := by
  simp [State.writeWindow, ofOffset_reserved h]

/-! ### The statements of 20_memory.md -/

/-- Settles O52: the port answers on the admitted side of `admittedOffset` and refuses on the other. -/
theorem onlyAdmittedAccessesHaveMeaning : Obligations.OnlyAdmittedAccessesHaveMeaning := by
  refine fun s addr n v he => ⟨?_, fun hna => step_access_refused (admittedOffset_eq_none hna) he⟩
  rintro ⟨rfl, off, rfl, h8, hlt⟩
  have ho := admittedOffset_base off h8 hlt
  rcases he with he | he
  · exact ⟨_, step_read_admitted ho he⟩
  · exact ⟨_, step_write_admitted ho he⟩

/-- Settles O53: the port reads `State.x`; a read by another requester only takes its event, and one by the host program
moves the host agent alone. -/
theorem readsReturnRegistersAndChangeNothing : Obligations.ReadsReturnRegistersAndChangeNothing := by
  refine ⟨fun s r => ?_, fun s t addr n he h => ?_, fun s r x he hl => ?_⟩
  · rw [memRead_reg]
    cases r <;> rfl
  · cases ho : admittedOffset addr n with
    | none => simp [step_access_refused (v := 0) ho (.inl he)] at h
    | some off =>
      rw [step_read_admitted ho he] at h
      exact (Host.Outcome.next.inj h).symm
  · exact ⟨_, step_line he hl, sameEngine_taken_host s _⟩

/-- Settles O54: no register stands at a reserved offset, and every one of them is admitted. -/
theorem reservedOffsetsReadZeroIgnoreWrites : Obligations.ReservedOffsetsReadZeroIgnoreWrites := by
  intro off h8 hlo hhi
  have ho := admittedOffset_base off h8 (by omega)
  refine ⟨fun s => ?_, fun s v he => ?_⟩
  · rw [State.memRead, ho, Option.map_some, readWindow_reserved s hlo]
  · rw [step_write_admitted ho he, writeWindow_reserved s.taken v hlo]

end Sys2Proof.Machine

/-! SUPPORT. The decoder: a word decodes to a command exactly when it is that command's encoding, and from that the
opcode map and the legality test of 30_encoding.md. -/

namespace Sys2Proof

/-! ### The opcode map, row by row -/

/-- 30_encoding.md rule R92: the full mask, the command's own word, and that word as `zext_64(OPCODE)`. -/
theorem opcodeTable_row : ∀ row ∈ opcodeTable,
    row.mask = BitVec.allOnes 64 ∧ row.pattern = encode row.instr ∧
      (opcodeField row.pattern).setWidth 64 = row.pattern := by
  decide

theorem exists_row_of_decode {w : Word} {i : Instr} (h : decode w = .ok i) :
    ∃ row ∈ opcodeTable, row.instr = i ∧ w &&& row.mask = row.pattern := by
  unfold decode at h
  split at h
  case isTrue => cases h
  case isFalse =>
    split at h
    case h_1 row hfind =>
      exact ⟨row, List.mem_of_find?_eq_some hfind, Except.ok.inj h, by simpa using List.find?_some hfind⟩
    case h_2 => cases h

/-! ### Decoding and encoding -/

@[simp] theorem decode_encode (i : Instr) : decode (encode i) = .ok i := by
  have h : Laws.Encoding.Statement i := by
    cases i
    exacts [Laws.Encoding.modexp, Laws.Encoding.mulmod, Laws.Encoding.witness, Laws.Encoding.mrtest,
      Laws.Encoding.isprime, Laws.Encoding.enc, Laws.Encoding.encr, Laws.Encoding.dec]
  obtain ⟨-, -, hdecode, -⟩ := h
  exact hdecode

theorem decode_eq_ok_iff {w : Word} {i : Instr} : decode w = .ok i ↔ w = encode i := by
  constructor
  · intro h
    obtain ⟨row, hrow, rfl, hmatch⟩ := exists_row_of_decode h
    obtain ⟨hmask, hpattern, -⟩ := opcodeTable_row row hrow
    rwa [hmask, BitVec.and_allOnes, hpattern] at hmatch
  · rintro rfl
    exact decode_encode i

/-! ### Legality (30_encoding.md rule R91) -/

/-- By 30_encoding.md rule R90 a word is its two fields, so one with no reserved bit set is `zext_64(OPCODE)`. -/
theorem eq_opcodeField_of_rsvdField_eq_zero {w : Word} (h : rsvdField w = 0) : w = (opcodeField w).setWidth 64 := by
  calc w = rsvdField w ++ opcodeField w := (BitVec.extractLsb'_append_extractLsb' (w := 56) (len := 8)).symm
    _ = 0#56 ++ opcodeField w := congrArg (· ++ opcodeField w) h
    _ = (opcodeField w).setWidth 64 := (BitVec.setWidth_eq_append (by decide)).symm

/-- The opcodes of 30_encoding.md rule R91 are those of the opcode map. -/
theorem exists_encode_eq_of_opcode {b : Byte}
    (h : b ∈ ([0x01, 0x02, 0x03, 0x04, 0x05, 0x06, 0x07, 0x08] : List Byte)) :
    ∃ i, encode i = b.setWidth 64 := by
  obtain ⟨row, hrow, rfl⟩ : ∃ row ∈ opcodeTable, opcodeField row.pattern = b := List.mem_map.1 h
  obtain ⟨-, hpattern, hwide⟩ := opcodeTable_row row hrow
  exact ⟨row.instr, by rw [hwide, hpattern]⟩

theorem exists_decode_iff {w : Word} :
    (∃ i, decode w = .ok i) ↔
      rsvdField w = 0 ∧ opcodeField w ∈ ([0x01, 0x02, 0x03, 0x04, 0x05, 0x06, 0x07, 0x08] : List Byte) := by
  simp only [decode_eq_ok_iff]
  constructor
  · rintro ⟨i, rfl⟩
    cases i <;> decide
  · rintro ⟨hrsvd, hop⟩
    obtain ⟨i, hi⟩ := exists_encode_eq_of_opcode hop
    exact ⟨i, (eq_opcodeField_of_rsvdField_eq_zero hrsvd).trans hi.symm⟩

/-! ### The statements of 30_encoding.md -/

/-- Settles O8: the all-ones mask keeps the word, and decoding is equality with the command's encoding. -/
theorem decodeFollowsOpcodeMap : Obligations.DecodeFollowsOpcodeMap := by
  refine fun w => ⟨fun i => ?_, exists_decode_iff⟩
  have hmask : w &&& 0xFFFFFFFFFFFFFFFF = w := BitVec.and_allOnes
  rw [decode_eq_ok_iff, hmask]
  cases i <;> rfl

end Sys2Proof

/-! SUPPORT. The modular arithmetic of 40_modexp.md: what the reduction unit and the square-and-multiply algorithm
compute as natural numbers, and from that the statements of `MULMOD` and `MODEXP`. -/

namespace Sys2Proof.Machine

/-! ### What a command's outcome leaves -/

theorem exec_returns {i : Instr} {s : State} {r0 r1 : Word} (h : outcomeOf i s = .result r0 r1) :
    ∃ t, exec i s = .next t ∧ Returned s t r0 r1 :=
  ⟨s.complete r0 r1 false 0, by rw [exec_eq, h]; rfl, completed_complete s r0 r1 false 0⟩

theorem exec_raises {i : Instr} {s : State} {e : ErrCode} (h : outcomeOf i s = .error e) :
    ∃ t, exec i s = .next t ∧ Raised s t e.code :=
  ⟨s.complete 0 0 true e.code, by rw [exec_eq, h, conclude_error], completed_complete s 0 0 true e.code⟩

/-! ### The reduction unit (rule R110) -/

theorem toNat_umod_lt (x : Word) {m : Word} (hm : m ≠ 0) : (x % m).toNat < m.toNat :=
  BitVec.toNat_umod.trans_lt (Nat.mod_lt _ (BitVec.toNat_pos_of_ne_zero hm))

/-- The product needs at most the 128 bits it has, and the remainder at most the 64 of the modulus. -/
theorem toNat_mulMod (a b : Word) {m : Word} (hm : m ≠ 0) : (mulMod a b m).toNat = a.toNat * b.toNat % m.toNat := by
  have hprod : a.toNat * b.toNat < 2 ^ 128 := calc
    a.toNat * b.toNat < 2 ^ 64 * 2 ^ 64 := Nat.mul_lt_mul'' a.isLt b.isLt
    _ = 2 ^ 128 := by norm_num
  have hrem : a.toNat * b.toNat % m.toNat < 2 ^ 64 := (Nat.mod_lt _ (BitVec.toNat_pos_of_ne_zero hm)).trans m.isLt
  have hwide : ∀ w : Word, (w.setWidth 128).toNat = w.toNat := fun _ => BitVec.toNat_setWidth_of_le (by decide)
  rw [mulMod, BitVec.toNat_setWidth, BitVec.toNat_umod, BitVec.toNat_mul, hwide, hwide, hwide,
    Nat.mod_eq_of_lt hprod, Nat.mod_eq_of_lt hrem]

/-! ### Square and multiply (rules R117, R118) -/

/-- One round: the accumulator squared, times the base where the exponent's bit is set. -/
theorem toNat_squareMultiply (bit : Bool) (acc b : Word) {m : Word} (hm : m ≠ 0) :
    (if bit then mulMod (mulMod acc acc m) b m else mulMod acc acc m).toNat =
      acc.toNat ^ 2 * b.toNat ^ bit.toNat % m.toNat := by
  cases bit <;> simp [toNat_mulMod _ _ hm, sq]

/-- The rounds for the exponent bits below `j` raise the accumulator to `2 ^ j` and multiply the base's power by
those bits onto it. -/
theorem toNat_modExpLoop (b e : Word) {m : Word} (hm : m ≠ 0) (j : Nat) {acc : Word} (hacc : acc.toNat < m.toNat) :
    (modExpLoop b e m j acc).toNat = acc.toNat ^ 2 ^ j * b.toNat ^ (e.toNat % 2 ^ j) % m.toNat := by
  induction j generalizing acc with
  | zero => simp [modExpLoop, Nat.mod_one, Nat.mod_eq_of_lt hacc]
  | succ j ih =>
    have hround := toNat_squareMultiply (e.getLsbD j) acc b hm
    have hlt := hround.trans_lt (Nat.mod_lt _ (BitVec.toNat_pos_of_ne_zero hm))
    have hpow : (acc.toNat ^ 2 * b.toNat ^ (e.getLsbD j).toNat) ^ 2 ^ j * b.toNat ^ (e.toNat % 2 ^ j) =
        acc.toNat ^ 2 ^ (j + 1) * b.toNat ^ (e.toNat % 2 ^ (j + 1)) := by
      rw [Nat.mod_pow_succ, ← Nat.toNat_testBit, BitVec.testBit_toNat]
      ring
    rw [modExpLoop, ih hlt, hround, ← hpow, Nat.mul_mod, ← Nat.pow_mod, ← Nat.mul_mod]

/-- The exponent has one bit for each of the rounds, so they compute the whole power. -/
theorem toNat_modExpLoop_one (b e : Word) {m : Word} (hm : 1 < m.toNat) :
    (modExpLoop b e m modexpIter 1).toNat = b.toNat ^ e.toNat % m.toNat := by
  have h0 : m ≠ 0 := by rintro rfl; exact absurd hm (by decide)
  have he : e.toNat % 2 ^ modexpIter = e.toNat := Nat.mod_eq_of_lt e.isLt
  have h1 : (1 : Word).toNat = 1 := rfl
  rw [toNat_modExpLoop b e h0 modexpIter (acc := 1) hm, he, h1, one_pow, one_mul]

/-- Rule R118: each of the source's four cases is the power of the reduced base, and so of the base. -/
theorem toNat_modExp (b0 e : Word) {m : Word} (hm : m ≠ 0) :
    (modExp b0 e m).toNat = b0.toNat ^ e.toNat % m.toNat := by
  have hlt := toNat_umod_lt b0 hm
  have hbase : (b0 % m).toNat ^ e.toNat % m.toNat = b0.toNat ^ e.toNat % m.toNat := by
    rw [BitVec.toNat_umod, ← Nat.pow_mod]
  rw [← hbase, modExp]
  generalize b0 % m = b at hlt ⊢
  split_ifs with he hzero hone
  · simp [he]
  · have hepos : e.toNat ≠ 0 := fun h => he (BitVec.eq_of_toNat_eq h)
    rcases hzero with rfl | rfl | rfl
    · simp [hepos]
    · exact absurd hlt (lt_irrefl _)
    · exact (Nat.mod_one _).symm
  · obtain rfl : b = 1 := by
      rcases hone with hb | rfl
      · exact hb
      · bv_omega
    simp
  · exact toNat_modExpLoop_one b e (by bv_omega)

/-! ### The statements of 40_modexp.md -/

/-- Settles O14: `MULMOD` raises on a zero modulus, and otherwise returns what the reduction unit computes. -/
theorem mulmodCommand : Obligations.MulmodCommand := by
  refine ⟨decode_encode .mulmod, fun s => ⟨fun h0 => ?_, fun hm => ?_⟩⟩
  · exact exec_raises (e := .modulusZero) (if_pos h0)
  · obtain ⟨t, hexec, ht⟩ := exec_returns (i := .mulmod) (if_neg hm)
    exact ⟨t, _, hexec, ht, toNat_mulMod s.opa s.opb hm⟩

/-- Settles O15: `MODEXP` raises on a zero modulus, and otherwise returns the power modulo it. -/
theorem modexpCommand : Obligations.ModexpCommand := by
  refine ⟨decode_encode .modexp, fun s => ⟨fun h0 => ?_, fun hm => ?_⟩⟩
  · exact exec_raises (e := .modulusZero) (if_pos h0)
  · obtain ⟨t, hexec, ht⟩ := exec_returns (i := .modexp) (if_neg hm)
    exact ⟨t, _, hexec, ht, toNat_modExp s.opa s.opb hm⟩

end Sys2Proof.Machine

/-! SUPPORT. The Miller-Rabin pipeline of 41_primality.md: what its two loops compute, what the drawn tests answer on a
run of non-witnesses, and from that the statements of `WITNESS`, `MRTEST` and `ISPRIME`. -/

namespace Sys2Proof.Machine

/-! ### The decomposition `n - 1 = 2^k * q` (rule R141) -/

/-- A number is a power of two times an odd number in one way only. -/
theorem two_pow_mul_odd_inj {k j q r : Nat} (hq : q % 2 = 1) (hr : r % 2 = 1) (h : 2 ^ k * q = 2 ^ j * r) :
    k = j ∧ q = r := by
  have hdvd : ∀ {k j q r : Nat}, r % 2 = 1 → 2 ^ k * q = 2 ^ j * r → 2 ^ k ∣ 2 ^ j := fun {k _ q r} hr h =>
    (Nat.Coprime.pow_left k (Nat.coprime_two_left.2 (Nat.odd_iff.2 hr))).dvd_of_dvd_mul_right (Dvd.intro q h)
  have hpow : 2 ^ k = 2 ^ j := Nat.dvd_antisymm (hdvd hr h) (hdvd hq h.symm)
  rw [hpow] at h
  exact ⟨Nat.pow_right_injective le_rfl hpow, Nat.eq_of_mul_eq_mul_left (Nat.two_pow_pos j) h⟩

/-- So the source's definition may be read at any decomposition. -/
theorem isWitness_iff {n v k q : Nat} (hn : n - 1 = 2 ^ k * q) (hq : q % 2 = 1) :
    IsWitness n v ↔ v ^ q % n ≠ 1 ∧ ∀ i < k, v ^ (2 ^ i * q) % n ≠ n - 1 := by
  constructor
  · rintro ⟨j, r, hn', hr, hw⟩
    obtain ⟨rfl, rfl⟩ := two_pow_mul_odd_inj hr hq (hn'.symm.trans hn)
    exact hw
  · exact fun hw => ⟨k, q, hn, hq, hw⟩

theorem getLsbD_zero_eq_true_iff {w : Word} : w.getLsbD 0 = true ↔ w.toNat % 2 = 1 := by
  rw [← BitVec.testBit_toNat, Nat.testBit_zero, decide_eq_true_iff]

/-- With a bit of fuel for each bit of the value, halving reaches the odd part, and counts the halvings. -/
theorem oddPart_spec (fuel : Nat) {w : Word} (k : Nat) (hw : w.toNat ≠ 0) (hlt : w.toNat < 2 ^ fuel) :
    ∃ q j, oddPart fuel w k = (q, k + j) ∧ w.toNat = 2 ^ j * q.toNat ∧ q.toNat % 2 = 1 := by
  induction fuel generalizing w k with
  | zero => omega
  | succ fuel ih =>
    rw [oddPart]
    by_cases hodd : w.getLsbD 0 = true
    · exact ⟨w, 0, if_pos hodd, by simp, getLsbD_zero_eq_true_iff.1 hodd⟩
    · rw [if_neg hodd]
      rw [getLsbD_zero_eq_true_iff] at hodd
      have hhalf : (w >>> 1).toNat = w.toNat / 2 := by simp [Nat.shiftRight_eq_div_pow]
      obtain ⟨q, j, hpart, hmul, hq⟩ := ih (w := w >>> 1) (k + 1) (by omega) (by omega)
      exact ⟨q, j + 1, by rw [hpart, add_assoc, add_comm 1 j], by rw [pow_succ', mul_assoc]; omega, hq⟩

/-! ### Repeated squaring (rule R143) -/

/-- The loop answers 1 exactly when none of the squarings is `n - 1`. -/
theorem squaringLoop_eq {n : Word} (hn : n ≠ 0) (k : Nat) {x : Word} (hx : x.toNat < n.toNat) :
    squaringLoop n k x = if ∀ i < k, x.toNat ^ 2 ^ i % n.toNat ≠ n.toNat - 1 then 1 else 0 := by
  induction k generalizing x with
  | zero => simp [squaringLoop]
  | succ k ih =>
    have hpos := BitVec.toNat_pos_of_ne_zero hn
    have hhere : x = n - 1 ↔ x.toNat ^ 2 ^ 0 % n.toNat = n.toNat - 1 := by
      rw [pow_zero, pow_one, Nat.mod_eq_of_lt hx]
      bv_omega
    have hsquare := toNat_mulMod x x hn
    have hlater : ∀ i, (mulMod x x n).toNat ^ 2 ^ i % n.toNat = x.toNat ^ 2 ^ (i + 1) % n.toNat := fun i => by
      rw [hsquare, ← Nat.pow_mod, ← sq, ← pow_mul, pow_succ']
    by_cases h : x = n - 1
    · rw [squaringLoop, if_pos h, if_neg fun hnone => hnone 0 k.succ_pos (hhere.1 h)]
    · rw [squaringLoop, if_neg h, ih (hsquare.trans_lt (Nat.mod_lt _ hpos))]
      simp only [hlater, Nat.forall_lt_succ_left, hhere.not.1 h, not_false_eq_true, true_and, ne_eq]

/-- Rule R143: the Fermat check and the loop are the source's formula at the decomposition `oddPart` finds. -/
theorem witness_eq {n q : Word} {k : Nat} (v : Word) (hn : n ≠ 0) (hpart : oddPart 64 (n - 1) 0 = (q, k)) :
    witness n v =
      if v.toNat ^ q.toNat % n.toNat ≠ 1 ∧ ∀ i < k, v.toNat ^ (2 ^ i * q.toNat) % n.toNat ≠ n.toNat - 1
      then 1 else 0 := by
  have hx := toNat_modExp v q hn
  have hfermat : modExp v q n = 1 ↔ v.toNat ^ q.toNat % n.toNat = 1 := by rw [← hx]; exact BitVec.toNat_inj.symm
  have hsquares : ∀ i, (modExp v q n).toNat ^ 2 ^ i % n.toNat = v.toNat ^ (2 ^ i * q.toNat) % n.toNat := fun i => by
    rw [hx, ← Nat.pow_mod, ← pow_mul, mul_comm]
  have hloop := squaringLoop_eq hn k (hx.trans_lt (Nat.mod_lt _ (BitVec.toNat_pos_of_ne_zero hn)))
  simp only [hsquares] at hloop
  simp only [witness, hpart, hfermat, hloop, ite_and, ite_not, ne_eq]

/-- Settles O13: `n - 1` is not zero and has 64 bits, so `oddPart` finds its decomposition, and there the definition
is what the loop computes. -/
theorem witnessMatchesDefinition : Obligations.WitnessMatchesDefinition := by
  rintro n v ⟨hge, -⟩
  have hpred : (n - 1).toNat = n.toNat - 1 := by bv_omega
  obtain ⟨q, k, hpart, hmul, hq⟩ := oddPart_spec 64 0 (by omega : (n - 1).toNat ≠ 0) (n - 1).isLt
  rw [hpred] at hmul
  rw [isWitness_iff hmul hq, witness_eq v (by rintro rfl; simp at hge) (hpart.trans (by rw [zero_add]))]
  exact ⟨fun h => if_pos h, fun h => if_neg h⟩

/-! ### The domain, and `WITNESS` -/

theorem outsideDomain_iff {n : Word} : outsideDomain n = true ↔ ¬ InDomain n.toNat := by
  have hlt : n < 3 ↔ n.toNat < 3 := BitVec.lt_def
  rw [outsideDomain, Bool.or_eq_true, decide_eq_true_iff, hlt, Bool.not_eq_true', ← Bool.not_eq_true,
    getLsbD_zero_eq_true_iff]
  omega

/-- Settles O16: `WITNESS` is the domain check and the witness function. -/
theorem witnessCommand : Obligations.WitnessCommand := by
  refine ⟨decode_encode .witness, fun s => ⟨fun hout => ?_, fun hin => ?_⟩⟩
  · exact exec_raises (e := .witnessDomain) (if_pos (outsideDomain_iff.2 hout))
  · obtain ⟨t, hexec, ht⟩ := exec_returns (i := .witness) (if_neg fun h => outsideDomain_iff.1 h hin)
    exact ⟨t, _, hexec, ht, witnessMatchesDefinition s.opa s.opb hin⟩

/-! ### Drawn tests (rules R145 to R148) -/

theorem exec_requests {i : Instr} {s : State} {lo hi : Word} (h : outcomeOf i s = .needs ⟨lo, hi⟩) :
    ∃ t, exec i s = .next t ∧ Requested s t lo hi :=
  ⟨s.issueDraw ⟨lo, hi⟩, by rw [exec_eq, h, conclude_needs],
    ⟨rfl, rfl, rfl, rfl, rfl, rfl, rfl, rfl, rfl, rfl, ⟨rfl, rfl, rfl, rfl, rfl, rfl⟩, ⟨rfl, rfl, rfl⟩⟩⟩

section
variable (n v : Word) (answers : List DrawAnswer) (t : Nat)

@[simp] theorem mrDrawLoop_zero : mrDrawLoop n answers 0 = .result 0 0 := by
  cases answers <;> rfl

@[simp] theorem mrDrawLoop_nil_succ : mrDrawLoop n [] (t + 1) = .needs (witnessDraw n) := rfl

@[simp] theorem mrDrawLoop_fail_succ : mrDrawLoop n (.fail :: answers) (t + 1) = .error .entropyFail := rfl

@[simp] theorem mrDrawLoop_ok_succ : mrDrawLoop n (.ok v :: answers) (t + 1) =
    if witness n v = 1 then .result 1 0 else mrDrawLoop n answers t := rfl

end

/-- Draws that are no witnesses use up one trial each. -/
theorem mrDrawLoop_append {n : Word} (hn : InDomain n.toNat) {drawn : List Word}
    (hnone : NoWitnessAmong n.toNat drawn) (rest : List DrawAnswer) (t : Nat) :
    mrDrawLoop n (drawn.map .ok ++ rest) (t + drawn.length) = mrDrawLoop n rest t := by
  induction drawn with
  | nil => rfl
  | cons v drawn ih =>
    obtain ⟨hv, hnone⟩ := List.forall_mem_cons.1 hnone
    have h0 : witness n v = 0 := (witnessMatchesDefinition n v hn).2 hv
    simpa [h0, ← add_assoc] using ih hnone

/-! ### `MRTEST` and `ISPRIME` -/

/-- An evaluation followed by another one on its results; an error and a missing draw end it. -/
def CmdOutcome.andThen (o : CmdOutcome) (f : Word → Word → CmdOutcome) : CmdOutcome :=
  match o with
  | .result r0 r1 => f r0 r1
  | .error e => .error e
  | .needs r => .needs r

@[simp] theorem CmdOutcome.result_andThen (r0 r1 : Word) (f : Word → Word → CmdOutcome) :
    (CmdOutcome.result r0 r1).andThen f = f r0 r1 := rfl
@[simp] theorem CmdOutcome.error_andThen (e : ErrCode) (f : Word → Word → CmdOutcome) :
    (CmdOutcome.error e).andThen f = .error e := rfl
@[simp] theorem CmdOutcome.needs_andThen (r : DrawRequest) (f : Word → Word → CmdOutcome) :
    (CmdOutcome.needs r).andThen f = .needs r := rfl

@[simp] theorem CmdOutcome.andThen_result (o : CmdOutcome) : o.andThen .result = o := by
  cases o <;> rfl

/-- The shape that `MRTEST` and `ISPRIME` share: the domain check, the drawn tests, and the answer `f` to the verdict. -/
def drawnOutcome (n : Word) (trials : Nat) (answers : List DrawAnswer) (f : Word → Word → CmdOutcome) : CmdOutcome :=
  if outsideDomain n then .error .witnessDomain else (mrDraws n trials answers).andThen f

theorem mrtestOutcome_eq (n t : Word) (answers : List DrawAnswer) :
    mrtestOutcome n t answers = drawnOutcome n t.toNat answers .result := by
  rw [drawnOutcome, CmdOutcome.andThen_result, mrtestOutcome]

theorem isprimeOutcome_eq (n : Word) (answers : List DrawAnswer) :
    isprimeOutcome n answers = drawnOutcome n 25 answers fun r _ => .result (1 - r) 0 := rfl

section
variable {n : Word} {trials : Nat} {answers : List DrawAnswer} {f : Word → Word → CmdOutcome}

theorem drawnOutcome_of_not_inDomain (hn : ¬ InDomain n.toNat) :
    drawnOutcome n trials answers f = .error .witnessDomain :=
  if_pos (outsideDomain_iff.2 hn)

theorem drawnOutcome_three : drawnOutcome 3 trials answers f = f 0 0 := rfl

theorem drawnOutcome_eq (hn : InDomain n.toNat) (h3 : n ≠ 3) :
    drawnOutcome n trials answers f = (mrDrawLoop n answers trials).andThen f := by
  rw [drawnOutcome, if_neg (fun h => outsideDomain_iff.1 h hn), mrDraws, if_neg h3]

end

/-- The statement `MRTEST` and `ISPRIME` share: `pass` is the answer when no trial finds a witness, `composite` the one
when a trial does. -/
def DrawnTests (i : Instr) (s : State) (trials : Nat) (pass composite : Word) : Prop :=
  (¬ InDomain s.opa.toNat → ∃ t, exec i s = .next t ∧ Raised s t 0x03) ∧
  (s.opa = 3 → ∃ t, exec i s = .next t ∧ Returned s t pass 0) ∧
  (InDomain s.opa.toNat → s.opa ≠ 3 →
    ∀ (drawn : List Word) (rest : List DrawAnswer),
      s.answers = drawn.map .ok ++ rest → NoWitnessAmong s.opa.toNat drawn →
      (drawn.length = trials → ∃ t, exec i s = .next t ∧ Returned s t pass 0) ∧
      (drawn.length < trials →
        (rest = [] → ∃ t, exec i s = .next t ∧ Requested s t 2 (s.opa - 2)) ∧
        (∀ more, rest = .fail :: more → ∃ t, exec i s = .next t ∧ Raised s t 0x08) ∧
        (∀ v more, rest = .ok v :: more → IsWitness s.opa.toNat v.toNat →
          ∃ t, exec i s = .next t ∧ Returned s t composite 0)))

theorem drawnTests {i : Instr} {s : State} {trials : Nat} {f : Word → Word → CmdOutcome} {pass composite : Word}
    (hi : outcomeOf i s = drawnOutcome s.opa trials s.answers f)
    (hpass : f 0 0 = .result pass 0) (hcomposite : f 1 0 = .result composite 0) :
    DrawnTests i s trials pass composite := by
  refine ⟨fun hout => ?_, fun h3 => ?_, fun hin h3 drawn rest hans hnone => ?_⟩
  · exact exec_raises (e := .witnessDomain) (hi.trans (drawnOutcome_of_not_inDomain hout))
  · exact exec_returns (by rw [hi, h3, drawnOutcome_three, hpass])
  have hrest : ∀ t, trials = t + drawn.length → outcomeOf i s = (mrDrawLoop s.opa rest t).andThen f := by
    rintro t rfl
    rw [hi, drawnOutcome_eq hin h3, hans, mrDrawLoop_append hin hnone]
  refine ⟨fun hlen => ?_, fun hlen => ?_⟩
  · exact exec_returns (by rw [hrest 0 (by omega), mrDrawLoop_zero, CmdOutcome.result_andThen, hpass])
  obtain ⟨t, rfl⟩ : ∃ t, trials = t + 1 + drawn.length := ⟨trials - drawn.length - 1, by omega⟩
  have hnext := hrest (t + 1) rfl
  refine ⟨?_, ?_, ?_⟩
  · rintro rfl
    exact exec_requests (by rw [hnext, mrDrawLoop_nil_succ, CmdOutcome.needs_andThen, witnessDraw])
  · rintro more rfl
    exact exec_raises (e := .entropyFail) (by rw [hnext, mrDrawLoop_fail_succ, CmdOutcome.error_andThen])
  · rintro v more rfl hv
    have h1 : witness s.opa v = 1 := (witnessMatchesDefinition s.opa v hin).1 hv
    exact exec_returns (by rw [hnext, mrDrawLoop_ok_succ, if_pos h1, CmdOutcome.result_andThen, hcomposite])

/-- Settles O17: `MRTEST` answers the verdict of `OPB` drawn tests as it is. -/
theorem mrtestCommand : Obligations.MrtestCommand :=
  ⟨decode_encode .mrtest, fun s => drawnTests (mrtestOutcome_eq s.opa s.opb s.answers) rfl rfl⟩

/-- Settles O18: `ISPRIME` answers the verdict of 25 drawn tests inverted. -/
theorem isprimeCommand : Obligations.IsprimeCommand :=
  ⟨decode_encode .isprime, fun s => drawnTests (isprimeOutcome_eq s.opa s.answers) rfl rfl⟩

end Sys2Proof.Machine

/-! SUPPORT. The ElGamal block unit of 42_elgamal.md: when its checks pass, which numbers encryption and decryption
compute, and from that the statements of `ENC`, `ENCR` and `DEC`. -/

namespace Sys2Proof.Machine

theorem ne_zero_of_lt_toNat {a : Nat} {w : Word} (h : a < w.toNat) : w ≠ 0 := by
  rintro rfl
  exact Nat.not_lt_zero a h

theorem le_blockMax_iff {w : Word} : w ≤ blockMax ↔ w.toNat ≤ 0xFFFFFFFF := BitVec.le_def

theorem blockMax_lt_iff {w : Word} : blockMax < w ↔ 0xFFFFFFFF < w.toNat := BitVec.lt_def

/-! ### The checks of `ENC` and `ENCR` (rules R171, R174) -/

theorem shiftRight_32_eq_zero_iff {w : Word} : w >>> 32 = 0 ↔ w.toNat < 2 ^ 32 := by
  rw [← BitVec.toNat_inj, BitVec.toNat_ushiftRight, Nat.shiftRight_eq_div_pow]
  exact Nat.div_eq_zero_iff_lt (by decide)

section
variable {p blk : Word}

theorem encryptCheck_eq_primeTooSmall (hp : p.toNat ≤ 0xFFFFFFFF) : encryptCheck p blk = some .primeTooSmall :=
  if_pos (le_blockMax_iff.2 hp)

theorem encryptCheck_eq_blockRange (hp : 0xFFFFFFFF < p.toNat) (hblk : 2 ^ 32 ≤ blk.toNat) :
    encryptCheck p blk = some .blockRange := by
  rw [encryptCheck, if_neg (le_blockMax_iff.not.2 hp.not_ge), if_pos (shiftRight_32_eq_zero_iff.not.2 hblk.not_gt)]

theorem encryptCheck_eq_none (hp : 0xFFFFFFFF < p.toNat) (hblk : blk.toNat < 2 ^ 32) : encryptCheck p blk = none := by
  rw [encryptCheck, if_neg (le_blockMax_iff.not.2 hp.not_ge), if_neg (not_not.2 (shiftRight_32_eq_zero_iff.2 hblk))]

variable {g y r : Word} {answers : List DrawAnswer} {e : ErrCode}

theorem encOutcome_of_check_some (h : encryptCheck p blk = some e) : encOutcome p g y blk r = .error e := by
  rw [encOutcome, h]

theorem encOutcome_of_check_none (h : encryptCheck p blk = none) :
    encOutcome p g y blk r = .result (encrypt p g y blk r).1 (encrypt p g y blk r).2 := by
  rw [encOutcome, h]

theorem encrOutcome_of_check_some (h : encryptCheck p blk = some e) : encrOutcome p g y blk answers = .error e := by
  rw [encrOutcome.eq_def, h]

theorem encrOutcome_nil (h : encryptCheck p blk = none) : encrOutcome p g y blk [] = .needs (exponentDraw p) := by
  rw [encrOutcome, h]

theorem encrOutcome_fail (h : encryptCheck p blk = none) :
    encrOutcome p g y blk (.fail :: answers) = .error .entropyFail := by
  rw [encrOutcome, h]

/-- After its draw `ENCR` is `ENC` with the drawn exponent. -/
theorem encrOutcome_ok : encrOutcome p g y blk (.ok r :: answers) = encOutcome p g y blk r := rfl

end

/-! ### Encryption (rule R172) -/

theorem toNat_encrypt_fst (g y blk r : Word) {p : Word} (hp : p ≠ 0) :
    (encrypt p g y blk r).1.toNat = g.toNat ^ r.toNat % p.toNat :=
  toNat_modExp g r hp

theorem toNat_encrypt_snd (g y blk r : Word) {p : Word} (hp : p ≠ 0) :
    (encrypt p g y blk r).2.toNat = blk.toNat * (y.toNat ^ r.toNat % p.toNat) % p.toNat := by
  rw [encrypt, toNat_mulMod _ _ hp, toNat_modExp _ _ hp]

/-- A command whose outcome is `ENC`'s for the exponent `r` returns the pair, once the checks pass. -/
theorem exec_encrypts {i : Instr} {s : State} {r : Word}
    (hi : outcomeOf i s = encOutcome s.opa s.opb s.opc s.opd r)
    (hp : 0xFFFFFFFF < s.opa.toNat) (hblk : s.opd.toNat < 2 ^ 32) :
    ∃ t c1 c2, exec i s = .next t ∧ Returned s t c1 c2 ∧
      c1.toNat = s.opb.toNat ^ r.toNat % s.opa.toNat ∧
      c2.toNat = s.opd.toNat * (s.opc.toNat ^ r.toNat % s.opa.toNat) % s.opa.toNat := by
  obtain ⟨t, hexec, ht⟩ := exec_returns (hi.trans (encOutcome_of_check_none (encryptCheck_eq_none hp hblk)))
  have hp0 := ne_zero_of_lt_toNat hp
  exact ⟨t, _, _, hexec, ht, toNat_encrypt_fst s.opb s.opc s.opd r hp0, toNat_encrypt_snd s.opb s.opc s.opd r hp0⟩

/-! ### `ENC` and `ENCR` -/

/-- Settles O20: `ENC` is the two checks and the encryption with `OPE`. -/
theorem encCommand : Obligations.EncCommand := by
  refine ⟨decode_encode .enc, fun s => ⟨fun hsmall => ?_, fun hp hbig => ?_, fun hp hblk => ?_⟩⟩
  · exact exec_raises (e := .primeTooSmall) (encOutcome_of_check_some (encryptCheck_eq_primeTooSmall hsmall))
  · exact exec_raises (e := .blockRange) (encOutcome_of_check_some (encryptCheck_eq_blockRange hp hbig))
  · exact exec_encrypts rfl hp hblk

/-- Settles O21: `ENCR` is the two checks, then its one draw, then `ENC` with the drawn exponent. -/
theorem encrCommand : Obligations.EncrCommand := by
  refine ⟨decode_encode .encr, fun s => ⟨fun hsmall => ?_, fun hp hbig => ?_, fun hp hblk => ?_⟩⟩
  · exact exec_raises (e := .primeTooSmall) (encrOutcome_of_check_some (encryptCheck_eq_primeTooSmall hsmall))
  · exact exec_raises (e := .blockRange) (encrOutcome_of_check_some (encryptCheck_eq_blockRange hp hbig))
  have hcheck := encryptCheck_eq_none hp hblk
  have hanswers : ∀ {as}, s.answers = as → outcomeOf .encr s = encrOutcome s.opa s.opb s.opc s.opd as :=
    fun h => congrArg (encrOutcome s.opa s.opb s.opc s.opd) h
  refine ⟨fun hnil => ?_, fun more hfail => ?_, fun r more hok => ?_⟩
  · exact exec_requests ((hanswers hnil).trans (encrOutcome_nil hcheck))
  · exact exec_raises (e := .entropyFail) ((hanswers hfail).trans (encrOutcome_fail hcheck))
  · exact exec_encrypts ((hanswers hok).trans encrOutcome_ok) hp hblk

/-! ### `DEC` (rules R178, R179) -/

section
variable {p xk : Word} (c1 c2 : Word)

theorem toNat_decrypt (hx : xk.toNat < p.toNat) :
    (decrypt p xk c1 c2).toNat =
      c1.toNat ^ (p.toNat - xk.toNat - 1) % p.toNat * (c2.toNat % p.toNat) % p.toNat := by
  have hp := ne_zero_of_lt_toNat hx
  have hexponent : (p - xk - 1).toNat = p.toNat - xk.toNat - 1 := by bv_omega
  rw [decrypt, toNat_mulMod _ _ hp, toNat_modExp _ _ hp, BitVec.toNat_umod, hexponent]

theorem keyRange_iff : p = 0 ∨ xk > p - 1 ↔ p.toNat = 0 ∨ p.toNat ≤ xk.toNat := by
  bv_omega

variable {c1 c2}

theorem decOutcome_keyRange (hx : p.toNat = 0 ∨ p.toNat ≤ xk.toNat) : decOutcome p xk c1 c2 = .error .keyRange :=
  if_pos (keyRange_iff.2 hx)

theorem decOutcome_eq (hx : xk.toNat < p.toNat) :
    decOutcome p xk c1 c2 =
      if decrypt p xk c1 c2 > blockMax then .error .decode else .result (decrypt p xk c1 c2) 0 :=
  if_neg (keyRange_iff.not.2 (by omega))

end

/-- Settles O22: `DEC` is the range check of the key, then the decryption, then the range check of the block. -/
theorem decCommand : Obligations.DecCommand := by
  refine ⟨decode_encode .dec, fun s => ⟨fun hkey => ?_, fun hx m hm => ?_⟩⟩
  · exact exec_raises (e := .keyRange) (decOutcome_keyRange hkey)
  have houtcome : outcomeOf .dec s = _ := decOutcome_eq hx
  rw [← toNat_decrypt s.opd s.ope hx] at hm
  subst hm
  refine ⟨fun hbig => ?_, fun hblk => ?_⟩
  · exact exec_raises (e := .decode) (houtcome.trans (if_pos (blockMax_lt_iff.2 hbig)))
  · obtain ⟨t, hexec, ht⟩ := exec_returns (houtcome.trans (if_neg (blockMax_lt_iff.not.2 hblk.not_gt)))
    exact ⟨t, _, hexec, ht, rfl⟩

end Sys2Proof.Machine

/-! SUPPORT. The command lifecycle of 60_exceptions.md: what each command can end in and why, how the word in flight
concludes, and from that the error table and the statements of acceptance and completion. -/

namespace Sys2Proof.Machine

/-! ### The error table (rule R201) -/

/-- The codes of errors are 0x01 to 0x08. -/
theorem ErrCode.code_range (e : ErrCode) : 1 ≤ e.code.toNat ∧ e.code.toNat ≤ 8 := by
  cases e <;> decide

theorem ErrCode.code_ne_zero (e : ErrCode) : e.code ≠ 0 := by
  cases e <;> decide

theorem ErrCode.code_inj {e e' : ErrCode} : e.code = e'.code ↔ e = e' := by
  cases e <;> cases e' <;> decide

/-- The cause of each error for a word in flight that decodes to `d`: the rows of rule R201, in the order of the checks. -/
def ErrorCause (d : Except DecodeReject Instr) (s : State) : ErrCode → Prop
  | .illegalCmd => ¬ ∃ i, d = .ok i
  | .modulusZero => (d = .ok .modexp ∨ d = .ok .mulmod) ∧ s.opc = 0
  | .witnessDomain =>
    (d = .ok .witness ∨ d = .ok .mrtest ∨ d = .ok .isprime) ∧ (s.opa.toNat < 3 ∨ s.opa.toNat % 2 = 0)
  | .blockRange => (d = .ok .enc ∨ d = .ok .encr) ∧ 0xFFFFFFFF < s.opa.toNat ∧ 2 ^ 32 ≤ s.opd.toNat
  | .primeTooSmall => (d = .ok .enc ∨ d = .ok .encr) ∧ s.opa.toNat ≤ 0xFFFFFFFF
  | .keyRange => d = .ok .dec ∧ (s.opa = 0 ∨ s.opa.toNat ≤ s.opc.toNat)
  | .decode => d = .ok .dec ∧ s.opc.toNat < s.opa.toNat ∧
      0xFFFFFFFF < s.opd.toNat ^ (s.opa.toNat - s.opc.toNat - 1) % s.opa.toNat
        * (s.ope.toNat % s.opa.toNat) % s.opa.toNat
  | .entropyFail => ∃ drawn rest, s.answers = drawn.map .ok ++ .fail :: rest ∧
      ((d = .ok .mrtest ∧ InDomain s.opa.toNat ∧ s.opa ≠ 3 ∧ drawn.length < s.opb.toNat ∧
          NoWitnessAmong s.opa.toNat drawn) ∨
        (d = .ok .isprime ∧ InDomain s.opa.toNat ∧ s.opa ≠ 3 ∧ drawn.length < 25 ∧
          NoWitnessAmong s.opa.toNat drawn) ∨
        (d = .ok .encr ∧ 0xFFFFFFFF < s.opa.toNat ∧ s.opd.toNat < 2 ^ 32 ∧ drawn = []))

/-! ### What a command can end in -/

/-- An outcome of a command: a result, a draw from the command's range, or an error for its cause. -/
inductive OutcomeCase (i : Instr) (s : State) : CmdOutcome → Prop
  | result (r0 r1 : Word) : OutcomeCase i s (.result r0 r1)
  | needs (r : DrawRequest) (h : drawRange i s = some r) : OutcomeCase i s (.needs r)
  | error (e : ErrCode) (h : ErrorCause (.ok i) s e) : OutcomeCase i s (.error e)

theorem not_inDomain_iff {n : Nat} : ¬ InDomain n ↔ n < 3 ∨ n % 2 = 0 := by
  omega

/-- Everything the loop of drawn tests can answer (41_primality.md rules R145, R148). -/
theorem mrDrawLoop_cases {n : Word} (hn : InDomain n.toNat) (answers : List DrawAnswer) (t : Nat) :
    (∃ r0 r1, mrDrawLoop n answers t = .result r0 r1) ∨
    mrDrawLoop n answers t = .needs (witnessDraw n) ∨
    (mrDrawLoop n answers t = .error .entropyFail ∧
      ∃ drawn rest, answers = drawn.map .ok ++ .fail :: rest ∧ drawn.length < t ∧ NoWitnessAmong n.toNat drawn) := by
  induction answers generalizing t with
  | nil =>
    cases t with
    | zero => exact .inl ⟨0, 0, rfl⟩
    | succ t => exact .inr (.inl rfl)
  | cons a answers ih =>
    cases t with
    | zero => exact .inl ⟨0, 0, rfl⟩
    | succ t =>
      cases a with
      | fail => exact .inr (.inr ⟨rfl, [], answers, rfl, Nat.succ_pos t, nofun⟩)
      | ok v =>
        rw [mrDrawLoop_ok_succ]
        split_ifs with hv
        · exact .inl ⟨1, 0, rfl⟩
        · rcases ih t with h | h | ⟨h, drawn, rest, rfl, hlt, hnone⟩
          · exact .inl h
          · exact .inr (.inl h)
          · have hv : ¬ IsWitness n.toNat v.toNat := fun hw => hv ((witnessMatchesDefinition n v hn).1 hw)
            exact .inr (.inr ⟨h, v :: drawn, rest, rfl, Nat.succ_lt_succ hlt, List.forall_mem_cons.2 ⟨hv, hnone⟩⟩)

/-- The drawn tests of `MRTEST` and `ISPRIME`, where the answer `f` to their verdict is a result. -/
theorem drawnOutcome_case {i : Instr} {s : State} {trials : Nat} {f : Word → Word → CmdOutcome}
    (hi : i = .mrtest ∧ trials = s.opb.toNat ∨ i = .isprime ∧ trials = 25)
    (hf : ∀ r0 r1, ∃ q0 q1, f r0 r1 = .result q0 q1) :
    OutcomeCase i s (drawnOutcome s.opa trials s.answers f) := by
  have hresult : ∀ r0 r1, OutcomeCase i s (f r0 r1) := fun r0 r1 => by
    obtain ⟨q0, q1, h⟩ := hf r0 r1
    rw [h]
    exact .result q0 q1
  by_cases hin : InDomain s.opa.toNat
  case neg =>
    rw [drawnOutcome_of_not_inDomain hin]
    refine .error .witnessDomain ⟨.inr ?_, not_inDomain_iff.1 hin⟩
    rcases hi with ⟨rfl, -⟩ | ⟨rfl, -⟩
    · exact .inl rfl
    · exact .inr rfl
  by_cases h3 : s.opa = 3
  case pos =>
    rw [h3]
    exact hresult 0 0
  rw [drawnOutcome_eq hin h3]
  rcases mrDrawLoop_cases hin s.answers trials with ⟨r0, r1, h⟩ | h | ⟨h, drawn, rest, ha, hlt, hnone⟩ <;> rw [h]
  · exact hresult r0 r1
  · have hne : s.opa.toNat ≠ 3 := fun h => h3 (BitVec.eq_of_toNat_eq h)
    have hrange : 3 < s.opa.toNat ∧ s.opa.toNat % 2 = 1 := by omega
    refine .needs (witnessDraw s.opa) ?_
    rcases hi with ⟨rfl, -⟩ | ⟨rfl, -⟩ <;> exact if_pos hrange
  · refine .error .entropyFail ⟨drawn, rest, ha, ?_⟩
    rcases hi with ⟨rfl, rfl⟩ | ⟨rfl, rfl⟩
    · exact .inl ⟨rfl, hin, h3, hlt, hnone⟩
    · exact .inr (.inl ⟨rfl, hin, h3, hlt, hnone⟩)

/-- Everything the checks of `ENC` and `ENCR` can answer (42_elgamal.md rules R171, R174). -/
theorem encryptCheck_cases (p blk : Word) :
    (encryptCheck p blk = some .primeTooSmall ∧ p.toNat ≤ 0xFFFFFFFF) ∨
    (encryptCheck p blk = some .blockRange ∧ 0xFFFFFFFF < p.toNat ∧ 2 ^ 32 ≤ blk.toNat) ∨
    (encryptCheck p blk = none ∧ 0xFFFFFFFF < p.toNat ∧ blk.toNat < 2 ^ 32) := by
  rcases le_or_gt p.toNat 0xFFFFFFFF with hp | hp
  · exact .inl ⟨encryptCheck_eq_primeTooSmall hp, hp⟩
  rcases le_or_gt (2 ^ 32) blk.toNat with hblk | hblk
  · exact .inr (.inl ⟨encryptCheck_eq_blockRange hp hblk, hp, hblk⟩)
  · exact .inr (.inr ⟨encryptCheck_eq_none hp hblk, hp, hblk⟩)

/-- Everything a command can end in. -/
theorem outcomeOf_case (i : Instr) (s : State) : OutcomeCase i s (outcomeOf i s) := by
  cases i with
  | modexp =>
    rw [outcomeOf, modexpOutcome]
    split_ifs with hm
    · exact .error .modulusZero ⟨.inl rfl, hm⟩
    · exact .result _ _
  | mulmod =>
    rw [outcomeOf, mulmodOutcome]
    split_ifs with hm
    · exact .error .modulusZero ⟨.inr rfl, hm⟩
    · exact .result _ _
  | witness =>
    rw [outcomeOf, witnessOutcome]
    split_ifs with hout
    · exact .error .witnessDomain ⟨.inl rfl, not_inDomain_iff.1 (outsideDomain_iff.1 hout)⟩
    · exact .result _ _
  | mrtest =>
    rw [outcomeOf, mrtestOutcome_eq]
    exact drawnOutcome_case (.inl ⟨rfl, rfl⟩) fun r0 r1 => ⟨r0, r1, rfl⟩
  | isprime =>
    rw [outcomeOf, isprimeOutcome_eq]
    exact drawnOutcome_case (.inr ⟨rfl, rfl⟩) fun r0 _ => ⟨1 - r0, 0, rfl⟩
  | enc =>
    rw [outcomeOf]
    rcases encryptCheck_cases s.opa s.opd with ⟨hc, h⟩ | ⟨hc, h⟩ | ⟨hc, -⟩
    · rw [encOutcome_of_check_some hc]
      exact .error .primeTooSmall ⟨.inl rfl, h⟩
    · rw [encOutcome_of_check_some hc]
      exact .error .blockRange ⟨.inl rfl, h⟩
    · rw [encOutcome_of_check_none hc]
      exact .result _ _
  | encr =>
    rw [outcomeOf]
    rcases encryptCheck_cases s.opa s.opd with ⟨hc, h⟩ | ⟨hc, h⟩ | ⟨hc, hp, hblk⟩
    · rw [encrOutcome_of_check_some hc]
      exact .error .primeTooSmall ⟨.inr rfl, h⟩
    · rw [encrOutcome_of_check_some hc]
      exact .error .blockRange ⟨.inr rfl, h⟩
    rcases ha : s.answers with - | ⟨- | r, more⟩
    · rw [encrOutcome_nil hc]
      exact .needs (exponentDraw s.opa) (if_pos ⟨hp, hblk⟩)
    · rw [encrOutcome_ok, encOutcome_of_check_none hc]
      exact .result _ _
    · rw [encrOutcome_fail hc]
      exact .error .entropyFail ⟨[], _, ha, .inr (.inr ⟨rfl, hp, hblk, rfl⟩)⟩
  | dec =>
    rw [outcomeOf]
    rcases le_or_gt s.opa.toNat s.opc.toNat with hx | hx
    · rw [decOutcome_keyRange (.inr hx)]
      exact .error .keyRange ⟨rfl, .inr hx⟩
    rw [decOutcome_eq hx]
    split_ifs with hm
    · rw [gt_iff_lt, blockMax_lt_iff, toNat_decrypt s.opd s.ope hx] at hm
      exact .error .decode ⟨rfl, hx, hm⟩
    · exact .result _ _

/-- A command waits only for a draw from its own range. -/
theorem drawRange_of_needs {i : Instr} {s : State} {r : DrawRequest} (h : outcomeOf i s = .needs r) :
    drawRange i s = some r := by
  have hcase := outcomeOf_case i s
  rw [h] at hcase
  cases hcase with
  | needs _ hr => exact hr

/-! ### What the word in flight ends in -/

/-- The outcome of a word that decodes to `d`: the command's own, or `ILLEGAL_CMD` (rule R203). -/
def decodedOutcome (d : Except DecodeReject Instr) (s : State) : CmdOutcome :=
  match d with
  | .ok i => outcomeOf i s
  | .error _ => .error .illegalCmd

/-- A `fail` answer ends drawn tests that the draws before it did not settle (41_primality.md rule R148). -/
theorem drawnOutcome_fail {n : Word} {trials : Nat} {f : Word → Word → CmdOutcome} {drawn : List Word}
    (rest : List DrawAnswer) (hn : InDomain n.toNat) (h3 : n ≠ 3) (hlt : drawn.length < trials)
    (hnone : NoWitnessAmong n.toNat drawn) :
    drawnOutcome n trials (drawn.map .ok ++ .fail :: rest) f = .error .entropyFail := by
  obtain ⟨t, rfl⟩ : ∃ t, trials = t + 1 + drawn.length := ⟨trials - drawn.length - 1, by omega⟩
  rw [drawnOutcome_eq hn h3, mrDrawLoop_append hn hnone, mrDrawLoop_fail_succ, CmdOutcome.error_andThen]

theorem decodedOutcome_of_cause {d : Except DecodeReject Instr} {s : State} {e : ErrCode} (h : ErrorCause d s e) :
    decodedOutcome d s = .error e := by
  cases e with
  | illegalCmd =>
    cases d with
    | ok i => exact absurd ⟨i, rfl⟩ h
    | error x => rfl
  | modulusZero =>
    obtain ⟨rfl | rfl, hm⟩ := h <;> exact if_pos hm
  | witnessDomain =>
    obtain ⟨rfl | rfl | rfl, hout⟩ := h <;> exact if_pos (outsideDomain_iff.2 (not_inDomain_iff.2 hout))
  | blockRange =>
    obtain ⟨rfl | rfl, hp, hblk⟩ := h
    · exact encOutcome_of_check_some (encryptCheck_eq_blockRange hp hblk)
    · exact encrOutcome_of_check_some (encryptCheck_eq_blockRange hp hblk)
  | primeTooSmall =>
    obtain ⟨rfl | rfl, hp⟩ := h
    · exact encOutcome_of_check_some (encryptCheck_eq_primeTooSmall hp)
    · exact encrOutcome_of_check_some (encryptCheck_eq_primeTooSmall hp)
  | keyRange =>
    obtain ⟨rfl, hx⟩ := h
    exact decOutcome_keyRange (hx.imp_left (congrArg BitVec.toNat))
  | decode =>
    obtain ⟨rfl, hx, hm⟩ := h
    rw [← toNat_decrypt s.opd s.ope hx, ← blockMax_lt_iff] at hm
    exact (decOutcome_eq hx).trans (if_pos hm)
  | entropyFail =>
    obtain ⟨drawn, rest, ha, ⟨rfl, hn, h3, hlt, hnone⟩ | ⟨rfl, hn, h3, hlt, hnone⟩ | ⟨rfl, hp, hblk, rfl⟩⟩ := h <;>
      rw [decodedOutcome, outcomeOf, ha]
    · rw [mrtestOutcome_eq, drawnOutcome_fail rest hn h3 hlt hnone]
    · rw [isprimeOutcome_eq, drawnOutcome_fail rest hn h3 hlt hnone]
    · exact encrOutcome_fail (encryptCheck_eq_none hp hblk)

/-- The error table, both ways. -/
theorem decodedOutcome_eq_error_iff {d : Except DecodeReject Instr} {s : State} {e : ErrCode} :
    decodedOutcome d s = .error e ↔ ErrorCause d s e := by
  refine ⟨fun h => ?_, decodedOutcome_of_cause⟩
  cases d with
  | error x =>
    obtain rfl : ErrCode.illegalCmd = e := CmdOutcome.error.inj h
    exact nofun
  | ok i =>
    have hcase := outcomeOf_case i s
    rw [show outcomeOf i s = .error e from h] at hcase
    cases hcase with
    | error _ hcause => exact hcause

/-! ### The steps of acceptance and completion (rules R205, R206, R208) -/

theorem accepted_accept (s : State) (w : Word) (a : HostAgent) : Accepted s { s.taken.accept w with host := a } w where
  inflight := rfl
  busy := rfl
  done := rfl
  err := rfl
  errcode := rfl
  lastop := BitVec.setWidth_eq_extractLsb' (x := w) (by decide)
  res0 := taken_res0 s
  res1 := taken_res1 s
  ovr := taken_ovr s
  drawReq := taken_drawReq s
  operands := sameOperands_iff.2 (by simp)

/-- The step of a write that a busy engine discards (10_state.md rule R38). -/
theorem step_discards {s : State} {r : Reg} {v : Word} (hr : r ∈ .cmd :: operandRegs) (hb : s.busy = true)
    (hw : NextWrites s r v) : ∃ a, step s = .next { s.taken.raiseOvr with host := a } := by
  obtain ⟨a, ha, -, -⟩ := step_write hw
  rw [writeReg_busy v hr (by simpa using hb)] at ha
  exact ⟨a, ha⟩

/-- The engine's step with any word in flight and no request outstanding. -/
theorem step_concludes {s : State} {f : InFlight} (he : s.nextEvent = .engine) (hf : s.inflight = some f)
    (hr : s.drawReq = none) : step s = .next (s.taken.conclude (decodedOutcome (decode f.word) s)) := by
  cases hd : decode f.word with
  | ok i => exact step_exec he hf hr hd
  | error e =>
    rw [step_engine he, engineTurn, taken_inflight, taken_drawReq, hf, hr]
    simp only [hd]
    rfl

/-- A completion is the conclusion of the word in flight: with a request outstanding the engine would have waited. -/
theorem completes_concludes {s t : State} {f : InFlight} (h : step s = .next t) (hc : Completes s t)
    (hf : s.inflight = some f) : t = s.taken.conclude (decodedOutcome (decode f.word) s) := by
  obtain ⟨he, -, hnone⟩ := hc
  cases hr : s.drawReq with
  | none => exact Host.Outcome.next.inj (h.symm.trans (step_concludes he hf hr))
  | some r =>
    have hwait : step s = .next s.taken := by
      rw [step_engine he, engineTurn, taken_inflight, taken_drawReq, hf, hr]
    obtain rfl := Host.Outcome.next.inj (h.symm.trans hwait)
    simp [hf] at hnone

/-- A completion shows an error's code exactly where that error has its cause. -/
theorem errcode_eq_code_iff {s t : State} {f : InFlight} (h : step s = .next t) (hc : Completes s t)
    (hf : s.inflight = some f) (e : ErrCode) : t.errcode = e.code ↔ ErrorCause (decode f.word) s e := by
  rw [← decodedOutcome_eq_error_iff]
  have ht := completes_concludes h hc hf
  obtain ⟨-, -, hnone⟩ := hc
  rw [ht] at hnone ⊢
  cases ho : decodedOutcome (decode f.word) s with
  | result r0 r1 => simpa using e.code_ne_zero.symm
  | error e' => simp [ErrCode.code_inj]
  | needs r => simp [ho, hf] at hnone

/-- An illegal word in the terms of its two fields (30_encoding.md rules R91, R96). -/
theorem not_exists_decode_iff {w : Word} :
    (¬ ∃ i, decode w = .ok i) ↔ w.extractLsb' 8 56 ≠ 0 ∨
      w.extractLsb' 0 8 ∉ ([0x01, 0x02, 0x03, 0x04, 0x05, 0x06, 0x07, 0x08] : List Byte) :=
  exists_decode_iff.not.trans not_and_or

/-- A command depends on the operands and the answers alone. -/
theorem outcomeOf_congr {s t : State} (i : Instr) (h : SameOperands s t) (hf : t.inflight = s.inflight) :
    outcomeOf i t = outcomeOf i s := by
  obtain ⟨-, ha, hb, hc, hd, he⟩ := h
  cases i <;> simp only [outcomeOf, State.answers, ha, hb, hc, hd, he, hf]

/-- A command that draws nothing concludes in one completion, the same from every state. -/
theorem conclude_undrawn {i : Instr} {s : State} (h : drawRange i s = none) :
    ∃ r0 r1 err code, ∀ u : State, u.conclude (outcomeOf i s) = u.complete r0 r1 err code := by
  cases ho : outcomeOf i s with
  | result r0 r1 => exact ⟨r0, r1, false, 0, fun _ => rfl⟩
  | error e => exact ⟨0, 0, true, e.code, fun _ => rfl⟩
  | needs r => rw [drawRange_of_needs ho] at h; cases h

/-! ### The statements of 60_exceptions.md -/

/-- Settles O5: the engine's turn with a legal word in flight and no request outstanding. -/
theorem stepExecutesDecodedCommand : Obligations.StepExecutesDecodedCommand := by
  intro s f i he hf hr hd
  rw [step_exec he hf hr hd, exec_eq, taken_outcomeOf]

/-- Settles O29: a completion is whole, and an error's code is one of the eight. -/
theorem completionIsOneWholeUpdate : Obligations.CompletionIsOneWholeUpdate :=
  fun _ _ h hc => (step_completes h hc).imp_right fun ⟨e, ht⟩ => ⟨e.code, e.code_range.1, e.code_range.2, ht⟩

/-- Settles O28: idle, a `CMD` write is the acceptance; busy, it is an overrun. -/
theorem acceptanceOfCommandWord : Obligations.AcceptanceOfCommandWord := by
  refine fun s w hw => ⟨fun hb => ?_, fun hb => step_overrun (by simp) hb hw⟩
  obtain ⟨a, ha⟩ := step_accepts ⟨hw, hb⟩
  exact ⟨_, ha, accepted_accept s w a, Bool.and_false _⟩

/-- Settles O27: acceptance does not look at the word, and the engine's turn on a word that decodes to nothing raises. -/
theorem illegalWordCompletes : Obligations.IllegalWordCompletes := by
  refine fun w hw => ⟨fun s ha => ?_, fun s answers he hf hr => ?_⟩
  · obtain ⟨a, ha⟩ := step_accepts ha
    exact ⟨_, ha, accepted_accept s w a⟩
  · have hcause : ErrorCause (decode w) s .illegalCmd := not_exists_decode_iff.2 hw
    refine ⟨_, step_concludes he hf hr, ?_⟩
    rw [decodedOutcome_of_cause hcause]
    exact completed_complete _ _ _ _ _

/-- Settles O23: a completion shows a code exactly where the table's row for it has its cause. -/
theorem errorCodesNameTheirCauses : Obligations.ErrorCodesNameTheirCauses := by
  intro s t f h hc hf
  have hcode := errcode_eq_code_iff h hc hf
  have hfail := hcode .entropyFail
  rw [ErrorCause, State.answers, hf] at hfail
  obtain ⟨hresult, herror⟩ : (t.err = false → t.errcode = 0x00) ∧
      (t.err = true → 0x01 ≤ t.errcode.toNat ∧ t.errcode.toNat ≤ 0x08) := by
    rcases step_completes h hc with ⟨r0, r1, ht⟩ | ⟨e, ht⟩
    · exact ⟨fun _ => ht.errcode, by simp [ht.err]⟩
    · exact ⟨by simp [ht.err], fun _ => ht.errcode ▸ e.code_range⟩
  exact ⟨hresult, herror, (hcode .illegalCmd).trans not_exists_decode_iff, hcode .modulusZero,
    hcode .witnessDomain, hcode .blockRange, hcode .primeTooSmall, hcode .keyRange, hcode .decode, hfail⟩

/-- Settles O32: completion then write is an acceptance, write then completion an overrun, and the outcome is the same
because the write leaves the operands. -/
theorem racingCommandWriteBothOrders : Obligations.RacingCommandWriteBothOrders := by
  intro s w v i rest hf hr hb hd hrange
  obtain ⟨r0, r1, err, code, hdone⟩ := conclude_undrawn hrange
  have hends : ∀ u, u.nextEvent = .engine → SameOperands s u → u.inflight = some ⟨v, []⟩ → u.drawReq = none →
      step u = .next (u.taken.complete r0 r1 err code) := fun u he hsame huf hur => by
    rw [step_exec he huf hur hd, outcomeOf_congr i hsame (huf.trans hf.symm), hdone]
  obtain ⟨a, haccept⟩ := step_accepts (w := w)
    (s := { s with events := .access (.memWrite (Config.baseAddr + 0x18) 8 w) :: rest }.complete r0 r1 err code)
    ⟨.inr rfl, rfl⟩
  obtain ⟨b, hdiscard⟩ := step_discards (r := .cmd) (v := w)
    (s := { s with events := .access (.memWrite (Config.baseAddr + 0x18) 8 w) :: .engine :: rest })
    (by simp) hb (.inr rfl)
  exact ⟨_, _,
    runs_succ.2 ⟨_, hends _ rfl ⟨rfl, rfl, rfl, rfl, rfl, rfl⟩ hf hr, runs_succ.2 ⟨_, haccept, runs_zero.2 rfl⟩⟩,
    runs_succ.2 ⟨_, hdiscard, runs_succ.2 ⟨_, hends _ rfl ⟨rfl, rfl, rfl, rfl, rfl, rfl⟩ hf hr, runs_zero.2 rfl⟩⟩,
    rfl, rfl, rfl, rfl, rfl, rfl, rfl, rfl, rfl⟩

end Sys2Proof.Machine

/-! SUPPORT. The reset input: what the register port shows after it, and the answer that comes too late; from that the
statement of 70_reset_and_hazards.md section 1. -/

namespace Sys2Proof.Machine

/-- The host agent and the moves that a reset leaves in place hold no register. -/
@[simp] theorem resetEngine_x (s : State) (r : Reg) : s.resetEngine.x r = State.reset.x r := by
  cases r <;> rfl

/-- An admitted read sees the registers alone. -/
theorem readWindow_congr {s t : State} (h : ∀ r, t.x r = s.x r) (off : Nat) : t.readWindow off = s.readWindow off := by
  cases hr : Reg.ofOffset off with
  | none => simp [State.readWindow, hr]
  | some r => rw [ofOffset_some hr, readWindow_offset, readWindow_offset, h]

/-- 70_reset_and_hazards.md rule R240: every register reads its reset value, `ID` included. -/
theorem readWindow_resetEngine (s : State) (off : Nat) :
    s.resetEngine.readWindow off = if off = 0 then idValue else 0 :=
  (readWindow_congr (resetEngine_x s) off).trans (readWindow_reset off)

theorem sameAgents_resetEngine (s : State) : SameAgents s s.resetEngine where
  host := rfl
  events := rfl
  tick := rfl

/-- An answer that no request is outstanding for is ignored, so its step only takes the event (20_memory.md rule R87). -/
theorem step_late_answer {s : State} {a : DrawAnswer} (he : s.nextEvent = .entropy a) (hr : s.drawReq = none) :
    step s = .next s.taken := by
  rw [step_entropy he]
  rcases deliver_cases s.taken a with hignored | ⟨f, r, -, hreq, -⟩
  · rw [hignored]
  · rw [taken_drawReq, hr] at hreq
    cases hreq

/-- Settles O3: the step is `State.resetEngine`, whose fields are those of reset, and which leaves no request for a late
answer to meet. -/
theorem resetInputDropsEverything : Obligations.ResetInputDropsEverything := fun s h =>
  ⟨s.taken.resetEngine, step_reset h, rfl, rfl, rfl, rfl, rfl, rfl, rfl, rfl, rfl, rfl, rfl, rfl, rfl, rfl, rfl, rfl, rfl,
    readWindow_resetEngine s.taken, sameAgents_resetEngine s.taken, fun _ _ he _ hr => step_late_answer he hr⟩

end Sys2Proof.Machine

/-! SUPPORT. Words put together from their fields: the eight byte lanes of a command word and the fields of `STATUS`,
and from that the statements on the byte decoder, the lanes and the layout. -/

namespace Sys2Proof

/-! ### Fields at bit positions -/

/-- A field placed above a value that ends below it adds its weight. -/
theorem toNat_or_shiftLeft {n k : Nat} {lo : Word} (x : BitVec n) (hlo : lo.toNat < 2 ^ k) (hx : n + k ≤ 64) :
    (lo ||| x.setWidth 64 <<< k).toNat = lo.toNat + 2 ^ k * x.toNat := by
  have hfits : x.toNat * 2 ^ k < 2 ^ 64 := calc
    x.toNat * 2 ^ k < 2 ^ n * 2 ^ k := Nat.mul_lt_mul_of_pos_right x.isLt (Nat.two_pow_pos k)
    _ = 2 ^ (n + k) := (pow_add 2 n k).symm
    _ ≤ 2 ^ 64 := Nat.pow_le_pow_right (by decide) hx
  rw [BitVec.toNat_or, BitVec.toNat_shiftLeft, BitVec.toNat_setWidth_of_le (by omega), Nat.shiftLeft_eq,
    Nat.mod_eq_of_lt hfits, Nat.or_comm, mul_comm, ← Nat.two_pow_add_eq_or_of_lt hlo, add_comm]

/-! ### Byte lanes (20_memory.md rule R74) -/

theorem toNat_byteLane (w : Word) (i : Nat) : (byteLane w i).toNat = w.toNat / 2 ^ (8 * i) % 2 ^ 8 := by
  rw [byteLane, BitVec.extractLsb'_toNat, Nat.shiftRight_eq_div_pow]

theorem byteLanes_eq (w : Word) :
    byteLanes w = [byteLane w 0, byteLane w 1, byteLane w 2, byteLane w 3, byteLane w 4, byteLane w 5, byteLane w 6,
      byteLane w 7] := rfl

theorem toNat_ofLanes (b0 b1 b2 b3 b4 b5 b6 b7 : Byte) :
    (ofLanes b0 b1 b2 b3 b4 b5 b6 b7).toNat =
      b0.toNat + 2 ^ 8 * b1.toNat + 2 ^ 16 * b2.toNat + 2 ^ 24 * b3.toNat + 2 ^ 32 * b4.toNat + 2 ^ 40 * b5.toNat
        + 2 ^ 48 * b6.toNat + 2 ^ 56 * b7.toNat := by
  have h0 : (b0.setWidth 64).toNat = b0.toNat := BitVec.toNat_setWidth_of_le (by decide)
  have h1 := toNat_or_shiftLeft (k := 8) b1 (h0.trans_lt (by omega)) (by decide)
  have h2 := toNat_or_shiftLeft (k := 16) b2 (h1.trans_lt (by omega)) (by decide)
  have h3 := toNat_or_shiftLeft (k := 24) b3 (h2.trans_lt (by omega)) (by decide)
  have h4 := toNat_or_shiftLeft (k := 32) b4 (h3.trans_lt (by omega)) (by decide)
  have h5 := toNat_or_shiftLeft (k := 40) b5 (h4.trans_lt (by omega)) (by decide)
  have h6 := toNat_or_shiftLeft (k := 48) b6 (h5.trans_lt (by omega)) (by decide)
  have h7 := toNat_or_shiftLeft (k := 56) b7 (h6.trans_lt (by omega)) (by decide)
  rw [ofLanes, h7, h6, h5, h4, h3, h2, h1, h0]

@[simp] theorem ofLanes_byteLane (w : Word) :
    ofLanes (byteLane w 0) (byteLane w 1) (byteLane w 2) (byteLane w 3) (byteLane w 4) (byteLane w 5) (byteLane w 6)
      (byteLane w 7) = w := by
  apply BitVec.eq_of_toNat_eq
  simp only [toNat_ofLanes, toNat_byteLane]
  have := w.isLt
  omega

@[simp] theorem byteLanes_ofLanes (b0 b1 b2 b3 b4 b5 b6 b7 : Byte) :
    byteLanes (ofLanes b0 b1 b2 b3 b4 b5 b6 b7) = [b0, b1, b2, b3, b4, b5, b6, b7] := by
  have hsum := toNat_ofLanes b0 b1 b2 b3 b4 b5 b6 b7
  generalize ofLanes b0 b1 b2 b3 b4 b5 b6 b7 = w at hsum
  have hlane : ∀ i b, w.toNat / 2 ^ (8 * i) % 2 ^ 8 = BitVec.toNat b → byteLane w i = b := fun i _ h =>
    BitVec.eq_of_toNat_eq ((toNat_byteLane w i).trans h)
  rw [byteLanes_eq, hlane 0 b0 (by omega), hlane 1 b1 (by omega), hlane 2 b2 (by omega), hlane 3 b3 (by omega),
    hlane 4 b4 (by omega), hlane 5 b5 (by omega), hlane 6 b6 (by omega), hlane 7 b7 (by omega)]

/-- The byte decoder on the lanes of a word is the decoder on the word. -/
@[simp] theorem decodeBytes_byteLanes (w : Word) : decodeBytes (byteLanes w) = decode w := by
  rw [byteLanes_eq, decodeBytes, ofLanes_byteLane]

/-- What the byte decoder accepts is the lanes of one word (30_encoding.md rule R97). -/
theorem exists_byteLanes_of_decodeBytes {bs : List Byte} {i : Instr} (h : decodeBytes bs = .ok i) :
    ∃ w, bs = byteLanes w := by
  unfold decodeBytes at h
  split at h
  case h_1 b0 b1 b2 b3 b4 b5 b6 b7 => exact ⟨_, (byteLanes_ofLanes b0 b1 b2 b3 b4 b5 b6 b7).symm⟩
  case h_2 => cases h

/-- Settles O9: what is accepted is the lanes of a word, and that word decodes to a command exactly when it is the
command's encoding. -/
theorem decodeBytesExactlyEncodings : Obligations.DecodeBytesExactlyEncodings := by
  refine fun bs i => ⟨fun h => ?_, ?_⟩
  · obtain ⟨w, rfl⟩ := exists_byteLanes_of_decodeBytes h
    rw [decodeBytes_byteLanes, decode_eq_ok_iff] at h
    rw [h]
  · rintro rfl
    rw [decodeBytes_byteLanes, decode_encode]

/-- Settles O7: eight closed words, evaluated. -/
theorem specWordsDecode : Obligations.SpecWordsDecode := by
  unfold Obligations.SpecWordsDecode
  decide

end Sys2Proof

namespace Sys2Proof.Machine

/-! ### The statements on the port's lanes and on `STATUS` -/

/-- Settles O10: a lane is a slice of eight bits, and the eight slices make up the word. -/
theorem byteLanesCarryRegisterBits : Obligations.ByteLanesCarryRegisterBits := by
  refine ⟨fun s off i j _ hj => ?_, fun w => (ofLanes_byteLane w).symm, decodeBytes_byteLanes⟩
  rw [State.readLane, BitVec.getLsbD_extractLsb', decide_eq_true hj, Bool.true_and]

/-- 10_state.md section 5: each field of `STATUS` with its weight. -/
theorem toNat_statusWord (s : State) :
    s.statusWord.toNat = s.busy.toNat + 2 * s.done.toNat + 4 * s.err.toNat + 8 * s.ovr.toNat
      + 2 ^ 8 * s.errcode.toNat + 2 ^ 16 * s.lastop.toNat := by
  have h0 : ((BitVec.ofBool s.busy).setWidth 64).toNat = (BitVec.ofBool s.busy).toNat :=
    BitVec.toNat_setWidth_of_le (by decide)
  have h1 := toNat_or_shiftLeft (k := 1) (.ofBool s.done) (h0.trans_lt (by omega)) (by decide)
  have h2 := toNat_or_shiftLeft (k := 2) (.ofBool s.err) (h1.trans_lt (by omega)) (by decide)
  have h3 := toNat_or_shiftLeft (k := 3) (.ofBool s.ovr) (h2.trans_lt (by omega)) (by decide)
  have h4 := toNat_or_shiftLeft (k := 8) s.errcode (h3.trans_lt (by omega)) (by decide)
  have h5 := toNat_or_shiftLeft (k := 16) s.lastop (h4.trans_lt (by omega)) (by decide)
  rw [State.statusWord, h5, h4, h3, h2, h1, h0]
  simp only [BitVec.toNat_ofBool]
  rfl

/-- Settles O43: `STATUS` at its offset reads as the word of its fields. -/
theorem statusWordLayout : Obligations.StatusWordLayout :=
  fun s => ⟨s.statusWord, memRead_reg s .status, toNat_statusWord s⟩

end Sys2Proof.Machine

/-! SUPPORT. The invariant of 10_state.md section 11: what one step can do to the command in flight and to its report,
that every such step keeps the invariant, and from that the statements over runs. -/

namespace Sys2Proof.Machine

/-! ### What one step can do to the command in flight -/

/-- The command in flight and the report of the last one go on from `s` to `t`, and while the engine is busy the
operands do too. -/
structure Undisturbed (s t : State) : Prop where
  inflight : t.inflight = s.inflight
  drawReq : t.drawReq = s.drawReq
  busy : t.busy = s.busy
  done : t.done = true → s.done = true
  err : t.err = s.err
  errcode : t.errcode = s.errcode
  lastop : t.lastop = s.lastop
  res0 : t.res0 = s.res0
  res1 : t.res1 = s.res1
  operands : s.busy = true → t.opa = s.opa ∧ t.opb = s.opb ∧ t.opc = s.opc ∧ t.opd = s.opd ∧ t.ope = s.ope

theorem undisturbed_iff {s t : State} :
    Undisturbed s t ↔ t.inflight = s.inflight ∧ t.drawReq = s.drawReq ∧ t.busy = s.busy ∧
      (t.done = true → s.done = true) ∧ t.err = s.err ∧ t.errcode = s.errcode ∧ t.lastop = s.lastop ∧
      t.res0 = s.res0 ∧ t.res1 = s.res1 ∧
      (s.busy = true → t.opa = s.opa ∧ t.opb = s.opb ∧ t.opc = s.opc ∧ t.opd = s.opd ∧ t.ope = s.ope) :=
  ⟨fun ⟨h1, h2, h3, h4, h5, h6, h7, h8, h9, h10⟩ => ⟨h1, h2, h3, h4, h5, h6, h7, h8, h9, h10⟩,
    fun ⟨h1, h2, h3, h4, h5, h6, h7, h8, h9, h10⟩ => ⟨h1, h2, h3, h4, h5, h6, h7, h8, h9, h10⟩⟩

/-- What a step from `s` leaves, by what it does to the command in flight. -/
inductive LifecycleStep (s : State) : State → Prop
  /-- The reset input drops it. -/
  | reset (he : s.nextEvent = .reset) : LifecycleStep s s.taken.resetEngine
  /-- A new command word is accepted (60_exceptions.md rule R205). -/
  | accepted (w : Word) (a : HostAgent) (h : Accepts s w) : LifecycleStep s { s.taken.accept w with host := a }
  /-- Its outstanding request is answered (10_state.md rule R47). -/
  | answered (a : DrawAnswer) (f : InFlight) (r : DrawRequest) (hf : s.inflight = some f) (hr : s.drawReq = some r)
      (ha : a.answers r = true) :
      LifecycleStep s { s.taken with inflight := some ⟨f.word, f.answers ++ [a]⟩, drawReq := none }
  /-- The engine agent evaluates it (60_exceptions.md rule R206). -/
  | concluded (f : InFlight) (he : s.nextEvent = .engine) (hf : s.inflight = some f) (hr : s.drawReq = none) :
      LifecycleStep s (s.taken.conclude (decodedOutcome (decode f.word) s))
  /-- Every other step lets it go on. -/
  | undisturbed (t : State) (h : Undisturbed s t) : LifecycleStep s t

theorem undisturbed_host (s : State) (a : HostAgent) : Undisturbed s { s.taken with host := a } := by
  simp [undisturbed_iff]

theorem lifecycleStep_write {s : State} {r : Reg} {v : Word} (hw : NextWrites s r v) (a : HostAgent) :
    LifecycleStep s { s.taken.writeReg r v with host := a } := by
  by_cases hr : r ∈ Reg.cmd :: operandRegs
  · cases hb : s.busy with
    | true =>
      rw [writeReg_busy v hr (by simpa using hb)]
      exact .undisturbed _ (by simp [undisturbed_iff])
    | false =>
      rcases List.mem_cons.1 hr with rfl | ho
      · rw [writeReg_cmd_idle v (by simpa using hb)]
        exact .accepted v a ⟨hw, hb⟩
      · rw [writeReg_operand_idle v ho (by simpa using hb)]
        exact .undisturbed _ (by simp [undisturbed_iff, hb])
  · refine .undisturbed _ ?_
    cases r with
    | id | res0 | res1 => exact undisturbed_host s a
    | ctrl | status => simp +contextual [undisturbed_iff]
    | cmd | opa | opb | opc | opd | ope => exact absurd hr (by decide)

/-- Every step is one of the lifecycle steps. -/
theorem step_lifecycle {s t : State} (h : step s = .next t) : LifecycleStep s t := by
  rcases step_cases h with ⟨he, rfl⟩ | ⟨a, -, rfl⟩ | ⟨r, v, a, hw, rfl, -⟩ | ⟨a, rfl, -, -⟩ | ⟨-, rfl, -⟩ |
    ⟨f, i, he, hf, hr, hd, rfl⟩ | ⟨f, e, he, hf, hr, hd, rfl⟩
  · exact .reset he
  · rcases deliver_cases s.taken a with hd | ⟨f, r, hf, hr, ha, hd⟩ <;> rw [hd]
    · exact .undisturbed _ (undisturbed_host s s.taken.host)
    · exact .answered a f r (by simpa using hf) (by simpa using hr) ha
  · exact lifecycleStep_write hw a
  · exact .undisturbed _ (undisturbed_host s a)
  · exact .undisturbed _ (undisturbed_host s s.taken.host)
  · simpa [hd, decodedOutcome] using LifecycleStep.concluded f he hf hr
  · simpa [hd, decodedOutcome, ErrCode.code] using LifecycleStep.concluded f he hf hr

/-- A step leaves the host variables, or assigns one of them. -/
theorem step_vars {s t : State} (h : step s = .next t) :
    t.host.vars = s.host.vars ∨ ∃ x v, t.host.vars = varSet s.host.vars x v := by
  rcases step_cases h with ⟨-, rfl⟩ | ⟨a, -, rfl⟩ | ⟨r, v, a, -, rfl, hv⟩ | ⟨a, rfl, -, hv⟩ | ⟨-, rfl, -⟩ |
    ⟨f, i, -, -, -, -, rfl⟩ | ⟨f, e, -, -, -, -, rfl⟩
  · simp
  · rcases deliver_cases s.taken a with hd | ⟨f, r, -, -, -, hd⟩ <;> simp [hd]
  · exact .inl hv
  · exact hv
  · simp
  · cases outcomeOf i s <;> simp
  · simp

/-- So every step keeps them in their one form. -/
theorem step_keeps_varsWf {s t : State} (h : step s = .next t) (hv : varsWf s.host.vars = true) :
    varsWf t.host.vars = true := by
  rcases step_vars h with ht | ⟨x, v, ht⟩ <;> rw [ht]
  · exact hv
  · exact varSet_wf hv x v

/-! ### The range the command in flight draws from -/

theorem drawRange_congr (i : Instr) {s t : State} (ha : t.opa = s.opa) (hd : t.opd = s.opd) :
    drawRange i t = drawRange i s := by
  cases i <;> simp only [drawRange, ha, hd]

theorem wordDrawRange_congr (w : Word) {s t : State} (ha : t.opa = s.opa) (hd : t.opd = s.opd) :
    wordDrawRange w t = wordDrawRange w s := by
  unfold wordDrawRange
  split
  · exact drawRange_congr _ ha hd
  · rfl

/-- A word in flight waits only for a draw from its own range. -/
theorem wordDrawRange_of_needs {w : Word} {s : State} {r : DrawRequest}
    (h : decodedOutcome (decode w) s = .needs r) : wordDrawRange w s = some r := by
  unfold wordDrawRange
  cases hd : decode w with
  | ok i => rw [hd] at h; exact drawRange_of_needs h
  | error e => rw [hd] at h; cases h

@[simp] theorem decodedOutcome_taken (d : Except DecodeReject Instr) (s : State) :
    decodedOutcome d s.taken = decodedOutcome d s := by
  cases d with
  | ok i => exact taken_outcomeOf s i
  | error e => rfl

/-! ### The invariant -/

/-- Settles O2: at reset there is no command and no error, so every clause holds by evaluation or for want of a case. -/
theorem resetMeetsInvariant : Obligations.ResetMeetsInvariant where
  inflight_iff_busy := rfl
  not_busy_and_done := nofun
  err_iff_code := by decide
  err_zero_results := nofun
  code_legal := by decide
  busy_no_err := nofun
  lastop_in_flight := nofun
  request_range := nofun
  answers_in_range := nofun
  vars_wf := rfl

namespace State.Inv

variable {s t : State} (h : State.Inv s)
include h

theorem busy_of_inflight {f : InFlight} (hf : s.inflight = some f) : s.busy = true := by
  rw [← h.inflight_iff_busy, hf]; rfl

theorem inflight_of_idle (hb : s.busy = false) : s.inflight = none := by
  rw [← Option.isNone_iff_eq_none, ← Option.not_isSome, h.inflight_iff_busy, hb]; rfl

/-- No request without a command. -/
theorem drawReq_of_idle (hb : s.busy = false) : s.drawReq = none := by
  cases hr : s.drawReq with
  | none => rfl
  | some r =>
    obtain ⟨f, hf, -⟩ := h.request_range r hr
    rw [h.inflight_of_idle hb] at hf
    cases hf

theorem undisturbed (hu : Undisturbed s t) (hv : varsWf t.host.vars = true) : State.Inv t := by
  have hrange : ∀ f, s.inflight = some f → wordDrawRange f.word t = wordDrawRange f.word s := fun f hf => by
    obtain ⟨ha, -, -, hd, -⟩ := hu.operands (h.busy_of_inflight hf)
    exact wordDrawRange_congr f.word ha hd
  exact {
    inflight_iff_busy := by rw [hu.inflight, hu.busy, h.inflight_iff_busy]
    not_busy_and_done := fun ⟨hb, hd⟩ => h.not_busy_and_done ⟨hu.busy ▸ hb, hu.done hd⟩
    err_iff_code := by rw [hu.err, hu.errcode, h.err_iff_code]
    err_zero_results := by rw [hu.err, hu.res0, hu.res1]; exact h.err_zero_results
    code_legal := by rw [hu.errcode]; exact h.code_legal
    busy_no_err := by rw [hu.busy, hu.err]; exact h.busy_no_err
    lastop_in_flight := by rw [hu.inflight, hu.lastop]; exact h.lastop_in_flight
    request_range := fun r hr => by
      obtain ⟨f, hf, hw⟩ := h.request_range r (hu.drawReq ▸ hr)
      exact ⟨f, hu.inflight.trans hf, (hrange f hf).trans hw⟩
    answers_in_range := fun f hf a ha => by
      rw [hu.inflight] at hf
      rw [hrange f hf]
      exact h.answers_in_range f hf a ha
    vars_wf := hv }

/-- Acceptance clears the report and starts with no draw. -/
theorem accept (hb : s.busy = false) (w : Word) : State.Inv (s.accept w) where
  inflight_iff_busy := rfl
  not_busy_and_done := by simp
  err_iff_code := by simp
  err_zero_results := by simp
  code_legal := by simp
  busy_no_err := by simp
  lastop_in_flight := by simp [BitVec.setWidth_eq_extractLsb']
  request_range := by simp [h.drawReq_of_idle hb]
  answers_in_range := by simp
  vars_wf := h.vars_wf

/-- A completion ends the command and leaves a report of the two kinds of 60_exceptions.md rules R209 and R210. -/
theorem complete (hr : s.drawReq = none) {r0 r1 : Word} {e : Bool} {c : Byte} (hcode : e = false ↔ c = 0)
    (hzero : e = true → r0 = 0 ∧ r1 = 0) (hlegal : c.toNat ≤ 8) : State.Inv (s.complete r0 r1 e c) where
  inflight_iff_busy := rfl
  not_busy_and_done := by simp
  err_iff_code := hcode
  err_zero_results := hzero
  code_legal := hlegal
  busy_no_err := by simp
  lastop_in_flight := by simp
  request_range := by simp [hr]
  answers_in_range := by simp
  vars_wf := h.vars_wf

/-- A request has the range of the command in flight. -/
theorem issueDraw {f : InFlight} {r : DrawRequest} (hf : s.inflight = some f) (hr : wordDrawRange f.word s = some r) :
    State.Inv (s.issueDraw r) :=
  { h with request_range := fun _ hr' => ⟨f, hf, hr.trans hr'⟩ }

theorem conclude {f : InFlight} (hf : s.inflight = some f) (hr : s.drawReq = none) :
    State.Inv (s.conclude (decodedOutcome (decode f.word) s)) := by
  cases ho : decodedOutcome (decode f.word) s with
  | result r0 r1 => exact h.complete hr (by simp) (by simp) (by simp)
  | error e => exact h.complete hr (by simpa using e.code_ne_zero) (by simp) e.code_range.2
  | needs r => exact h.issueDraw hf (wordDrawRange_of_needs ho)

/-- An answer is taken by a request, and that has the range of the command in flight. -/
theorem answer {f : InFlight} {r : DrawRequest} {a : DrawAnswer} (hf : s.inflight = some f) (hr : s.drawReq = some r)
    (ha : a.answers r = true) :
    State.Inv { s with inflight := some ⟨f.word, f.answers ++ [a]⟩, drawReq := none } := by
  obtain ⟨f', hf', hw⟩ := h.request_range r hr
  obtain rfl : f' = f := Option.some.inj (hf'.symm.trans hf)
  exact { h with
    inflight_iff_busy := (h.busy_of_inflight hf).symm
    lastop_in_flight := fun g hg => Option.some.inj hg ▸ h.lastop_in_flight f' hf
    request_range := nofun
    answers_in_range := by
      intro g hg b hb
      obtain rfl := Option.some.inj hg
      rcases List.mem_append.1 hb with hb | hb
      · exact h.answers_in_range f' hf b hb
      · exact ⟨r, hw, List.mem_singleton.1 hb ▸ ha⟩ }

/-- Taking an event leaves the engine as it was. -/
theorem taken : State.Inv s.taken :=
  h.undisturbed (undisturbed_host s s.taken.host) (by simpa using h.vars_wf)

end State.Inv

/-- Settles O30: each lifecycle step keeps the invariant, and every step keeps the form of the host variables. -/
theorem invariantKeptByEveryStep : Obligations.InvariantKeptByEveryStep := by
  intro s t h hst
  have hvars := step_keeps_varsWf hst h.vars_wf
  cases step_lifecycle hst with
  | reset he =>
    exact resetMeetsInvariant.undisturbed (undisturbed_iff.2 (by simp)) hvars
  | accepted w a ha =>
    exact (h.taken.accept (by simpa using ha.2) w).undisturbed (undisturbed_iff.2 (by simp)) hvars
  | answered a f r hf hr ha => exact h.taken.answer (by simpa using hf) (by simpa using hr) ha
  | concluded f he hf hr =>
    have hconclude := h.taken.conclude (by simpa using hf) (by simpa using hr)
    rwa [decodedOutcome_taken] at hconclude
  | undisturbed _ hu => exact h.undisturbed hu hvars

/-! ### The error report (10_state.md rules R37, R39) -/

/-- Settles O46: of the register steps, completion, acceptance and reset alone touch `ERR` and `ERRCODE`. -/
theorem errorReportOfTheLastCompletion : Obligations.ErrorReportOfTheLastCompletion := by
  refine ⟨?_, ?_, ?_, ?_, ?_⟩
  · intro s t h hne
    cases step_registers h with
    | completed r0 r1 err code he hf => exact .inl ⟨he, hf, rfl⟩
    | accepted w a hw => exact .inr (.inl ⟨w, hw⟩)
    | reset he => exact .inr (.inr he)
    | _ => simp at hne
  · intro s t h hc
    rcases step_completes h hc with ⟨r0, r1, ht⟩ | ⟨e, ht⟩
    · exact ⟨fun _ => ht.errcode, by simp [ht.err]⟩
    · exact ⟨by simp [ht.err], fun _ => ht.errcode ▸ e.code_range⟩
  · intro s w hw
    obtain ⟨a, ha⟩ := step_accepts hw
    exact ⟨_, ha, rfl, rfl⟩
  · intro s t h he
    rw [step_next_reset h he]
    exact ⟨rfl, rfl⟩
  · intro s v hw
    obtain ⟨a, ha, -, -⟩ := step_write hw
    exact ⟨_, ha, by simp, by simp⟩

/-! ### The idle engine along a run (20_memory.md rules R77, R81) -/

/-- The idle engine's part of `ReportHoldsUntilNextAcceptance`, with the invariant that carries it along a run. -/
structure IdleWithReportOf (s t : State) : Prop where
  inv : State.Inv t
  busy : t.busy = false
  res0 : t.res0 = s.res0
  res1 : t.res1 = s.res1
  err : t.err = s.err
  errcode : t.errcode = s.errcode
  lastop : t.lastop = s.lastop

/-- An idle engine has nothing to complete, so with no acceptance and no reset a step touches neither `BUSY` nor the
report. -/
theorem IdleWithReportOf.step {s t u : State} (h : IdleWithReportOf s t)
    (hq : t.nextEvent ≠ .reset ∧ ∀ w, ¬ Accepts t w) (hu : step t = .next u) : IdleWithReportOf s u := by
  obtain ⟨hreset, haccept⟩ := hq
  have hidle : t.inflight = none := h.inv.inflight_of_idle h.busy
  cases step_lifecycle hu with
  | reset he => exact absurd he hreset
  | accepted w a ha => exact absurd ha (haccept w)
  | answered a f r hf => simp [hidle] at hf
  | concluded f he hf => simp [hidle] at hf
  | undisturbed _ hund =>
    exact ⟨invariantKeptByEveryStep t u h.inv hu, hund.busy.trans h.busy, hund.res0.trans h.res0,
      hund.res1.trans h.res1, hund.err.trans h.err, hund.errcode.trans h.errcode, hund.lastop.trans h.lastop⟩

/-- Settles O34: by induction over the run. -/
theorem reportHoldsUntilNextAcceptance : Obligations.ReportHoldsUntilNextAcceptance := by
  intro k s t hinv hb hrun halong
  have h : IdleWithReportOf s t :=
    run_induction (fun _ _ hu hq hs => hu.step hq hs) k s t ⟨hinv, hb, rfl, rfl, rfl, rfl, rfl⟩ hrun halong
  exact ⟨h.busy, h.inv.inflight_of_idle h.busy, h.res0, h.res1, h.err, h.errcode, h.lastop⟩

/-! ### The busy engine along a run (70_reset_and_hazards.md rule R254) -/

/-- Outside the range check the drawn tests end before their first answer counts. -/
theorem drawnOutcome_undrawn {n : Word} (h : ¬ (3 < n.toNat ∧ n.toNat % 2 = 1)) (trials : Nat)
    (answers answers' : List DrawAnswer) (f : Word → Word → CmdOutcome) :
    drawnOutcome n trials answers f = drawnOutcome n trials answers' f := by
  by_cases hin : InDomain n.toNat
  · obtain rfl : n = 3 := BitVec.eq_of_toNat_eq (show n.toNat = 3 by omega)
    rfl
  · rw [drawnOutcome_of_not_inDomain hin, drawnOutcome_of_not_inDomain hin]

/-- A command that draws nothing depends on its operands alone. -/
theorem outcomeOf_congr_of_undrawn {i : Instr} {s t : State} (hdraw : drawRange i s = none)
    (h : t.opa = s.opa ∧ t.opb = s.opb ∧ t.opc = s.opc ∧ t.opd = s.opd ∧ t.ope = s.ope) :
    outcomeOf i t = outcomeOf i s := by
  obtain ⟨ha, hb, hc, hd, he⟩ := h
  cases i with
  | modexp | mulmod | witness | enc | dec => simp only [outcomeOf, ha, hb, hc, hd, he]
  | mrtest =>
    have hrange : ¬ (3 < s.opa.toNat ∧ s.opa.toNat % 2 = 1) := fun hr => nomatch hdraw.symm.trans (if_pos hr)
    simp only [outcomeOf, mrtestOutcome_eq, ha, hb, drawnOutcome_undrawn hrange _ t.answers s.answers]
  | isprime =>
    have hrange : ¬ (3 < s.opa.toNat ∧ s.opa.toNat % 2 = 1) := fun hr => nomatch hdraw.symm.trans (if_pos hr)
    simp only [outcomeOf, isprimeOutcome_eq, ha, drawnOutcome_undrawn hrange _ t.answers s.answers]
  | encr =>
    simp only [outcomeOf, ha, hb, hc, hd]
    rcases encryptCheck_cases s.opa s.opd with ⟨hcheck, -⟩ | ⟨hcheck, -⟩ | ⟨-, hp, hblk⟩
    · rw [encrOutcome_of_check_some hcheck, encrOutcome_of_check_some hcheck]
    · rw [encrOutcome_of_check_some hcheck, encrOutcome_of_check_some hcheck]
    · exact nomatch hdraw.symm.trans (if_pos ⟨hp, hblk⟩)

/-- The command `w` that was in flight in `s` is still so in `t`, on the same operands, with the results of the command
before it. -/
structure InProgressSince (s : State) (w : Word) (t : State) : Prop where
  operands : t.opa = s.opa ∧ t.opb = s.opb ∧ t.opc = s.opc ∧ t.opd = s.opd ∧ t.ope = s.ope
  inflight : ∃ answers, t.inflight = some ⟨w, answers⟩
  res0 : t.res0 = s.res0
  res1 : t.res1 = s.res1

/-- A busy engine discards writes, so only a completion or the reset input ends the progress. -/
theorem InProgressSince.step {s t u : State} {w : Word} (h : InProgressSince s w t) (hb : t.busy = true)
    (hreset : t.nextEvent ≠ .reset) (hu : step t = .next u) (hub : u.busy = true) : InProgressSince s w u := by
  obtain ⟨⟨ha, hb', hc, hd, he⟩, ⟨answers, hf⟩, h0, h1⟩ := h
  cases step_lifecycle hu with
  | reset he => exact absurd he hreset
  | accepted v a hv => simp [hv.2] at hb
  | answered a f r hf' =>
    obtain rfl : f = ⟨w, answers⟩ := Option.some.inj (hf'.symm.trans hf)
    exact ⟨by simp [ha, hb', hc, hd, he], ⟨_, rfl⟩, by simpa using h0, by simpa using h1⟩
  | concluded f _ hf' =>
    cases ho : decodedOutcome (decode f.word) t with
    | result r0 r1 | error e => simp [ho] at hub
    | needs r =>
      exact ⟨by simp [ha, hb', hc, hd, he], ⟨answers, by simpa using hf⟩, by simpa using h0, by simpa using h1⟩
  | undisturbed _ hund =>
    obtain ⟨ga, gb, gc, gd, ge⟩ := hund.operands hb
    exact ⟨⟨ga.trans ha, gb.trans hb', gc.trans hc, gd.trans hd, ge.trans he⟩, ⟨answers, hund.inflight.trans hf⟩,
      hund.res0.trans h0, hund.res1.trans h1⟩

/-- Settles O33: the command is in progress all along the run, by induction over it, and one that draws nothing
depends on its operands alone. -/
theorem noStaleOperands : Obligations.NoStaleOperands := by
  intro k s t w hb hf hrun htb halong
  have h : t.busy = true → InProgressSince s w t :=
    run_induction (P := fun u => u.busy = true → InProgressSince s w u)
      (fun u v hu hq hs hvb => (hu hq.1).step hq.1 hq.2 hs hvb) k s t
      (fun _ => ⟨⟨rfl, rfl, rfl, rfl, rfl⟩, ⟨[], hf⟩, rfl, rfl⟩) hrun halong
  obtain ⟨hops, ⟨answers, hft⟩, h0, h1⟩ := h htb
  have ⟨ha, hb, hc, hd, he⟩ := hops
  refine ⟨ha, hb, hc, hd, he, ⟨answers, hft⟩, h0, h1, fun i hi hdraw hr hev => ?_⟩
  obtain ⟨r0, r1, err, code, hdone⟩ := conclude_undrawn hdraw
  refine ⟨s.complete r0 r1 err code, t.taken.complete r0 r1 err code, ?_, ?_, rfl, rfl, rfl, rfl, rfl⟩
  · rw [exec_eq, hdone]
  · rw [step_exec hev hft hr hi, outcomeOf_congr_of_undrawn hdraw hops, hdone]

end Sys2Proof.Machine

/-! SUPPORT. What the arithmetic units are for: powers and remainders, verdicts on primes, and the way back from an
encrypted block; from that the rules that 40_modexp.md, 41_primality.md and 42_elgamal.md infer of them. -/

namespace Sys2Proof.Machine

/-! ### The units as functions on natural numbers (40_modexp.md rules R110, R118) -/

/-- Settles O11: the modulus is not zero, so this is `toNat_mulMod`. -/
theorem mulModIsExactRemainder : Obligations.MulModIsExactRemainder :=
  fun a b _ hm => toNat_mulMod a b (ne_zero_of_lt_toNat hm)

/-- Settles O12: the modulus is not zero, so this is `toNat_modExp`. -/
theorem modExpIsPowerRemainder : Obligations.ModExpIsPowerRemainder :=
  fun b0 e _ hm => toNat_modExp b0 e (ne_zero_of_lt_toNat hm)

/-! ### What the state that an evaluation left shows of its outcome -/

/-- A result in the state after an evaluation is the evaluation's own, unless the state before already showed no command
in flight with a request outstanding. -/
theorem eq_result_of_returned {s : State} {o : CmdOutcome} {r0 r1 : Word} (h : Returned s (s.conclude o) r0 r1)
    (hs : s.inflight ≠ none ∨ s.drawReq = none) : o = .result r0 r1 := by
  cases o with
  | result q0 q1 => rw [← h.res0, ← h.res1]; rfl
  | error e => exact absurd h.err Bool.noConfusion
  | needs r =>
    have hf : s.inflight = none := h.inflight
    have hr : some r = s.drawReq := h.drawReq
    rcases hs with hs | hs
    · exact absurd hf hs
    · exact nomatch hr.trans hs

theorem eq_error_of_raised {s : State} {o : CmdOutcome} {code : Byte} (h : Raised s (s.conclude o) code)
    (hs : s.drawReq = none) : ∃ e : ErrCode, o = .error e ∧ e.code = code := by
  cases o with
  | result r0 r1 => exact absurd h.err Bool.noConfusion
  | error e => exact ⟨e, rfl, h.errcode⟩
  | needs r => exact nomatch (show some r = s.drawReq from h.drawReq).trans hs

theorem eq_needs_of_requested {s : State} {o : CmdOutcome} {lo hi : Word} (h : Requested s (s.conclude o) lo hi)
    (hs : s.drawReq = none) : o = .needs ⟨lo, hi⟩ := by
  have hr := h.drawReq
  cases o with
  | result r0 r1 | error e => exact nomatch hs.symm.trans hr
  | needs r => exact congrArg _ (Option.some.inj hr)

/-! ### Witnesses and primes (41_primality.md rule R151) -/

/-- In a field, what squares to 1 in `k` steps is 1 or meets -1 on the way. -/
theorem eq_one_or_exists_eq_neg_one {F : Type} [Field F] {y : F} (k : Nat) (h : y ^ 2 ^ k = 1) :
    y = 1 ∨ ∃ i < k, y ^ 2 ^ i = -1 := by
  induction k with
  | zero => exact .inl (by simpa using h)
  | succ k ih =>
    rw [pow_succ, pow_mul, sq_eq_one_iff] at h
    rcases h with h | h
    · exact (ih h).imp_right fun ⟨i, hi, hy⟩ => ⟨i, hi.trans k.lt_succ_self, hy⟩
    · exact .inr ⟨k, k.lt_succ_self, h⟩

/-- A prime has no witness among the numbers it does not divide: Fermat's little theorem, and the square roots of 1. -/
theorem not_isWitness_of_prime {p v : Nat} (hp : p.Prime) (hv : ¬ p ∣ v) : ¬ IsWitness p v := by
  have := Fact.mk hp
  rintro ⟨k, q, hpq, -, hone, hneg⟩
  have hfermat : ((v : ZMod p) ^ q) ^ 2 ^ k = 1 := by
    rw [← pow_mul, mul_comm, ← hpq]
    exact ZMod.pow_card_sub_one_eq_one (mt (ZMod.natCast_eq_zero_iff v p).1 hv)
  rcases eq_one_or_exists_eq_neg_one k hfermat with h | ⟨i, hi, h⟩
  · refine hone ?_
    have : ((v ^ q : Nat) : ZMod p) = (1 : Nat) := by exact_mod_cast h
    rw [ZMod.natCast_eq_natCast_iff'] at this
    rw [this, Nat.mod_eq_of_lt hp.one_lt]
  · refine hneg i hi ?_
    have : ((v ^ (2 ^ i * q) : Nat) : ZMod p) = (p - 1 : Nat) := by
      rw [Nat.cast_pow, mul_comm, pow_mul, h, Nat.cast_sub hp.one_le]
      simp
    rw [ZMod.natCast_eq_natCast_iff'] at this
    rw [this, Nat.mod_eq_of_lt (Nat.sub_lt hp.pos Nat.one_pos)]

/-- Draws from [2, p - 2] find no witness for a prime p. -/
theorem mrDrawLoop_of_prime {n : Word} (hn : InDomain n.toNat) (hp : n.toNat.Prime) {answers : List DrawAnswer}
    (hans : ∀ a ∈ answers, a.answers (witnessDraw n) = true) {t : Nat} {r0 r1 : Word}
    (h : mrDrawLoop n answers t = .result r0 r1) : r0 = 0 ∧ r1 = 0 := by
  induction t generalizing answers with
  | zero =>
    rw [mrDrawLoop_zero, CmdOutcome.result.injEq] at h
    exact ⟨h.1.symm, h.2.symm⟩
  | succ t ih =>
    rcases answers with - | ⟨v | -, rest⟩
    · cases h
    · obtain ⟨hv, hrest⟩ := List.forall_mem_cons.1 hans
      have hrange : 2 ≤ v ∧ v ≤ n - 2 := of_decide_eq_true hv
      have hdvd : ¬ n.toNat ∣ v.toNat := Nat.not_dvd_of_pos_of_lt (by bv_omega) (by bv_omega)
      have h0 : witness n v = 0 := (witnessMatchesDefinition n v hn).2 (not_isWitness_of_prime hp hdvd)
      rw [mrDrawLoop_ok_succ, h0, if_neg (by decide)] at h
      exact ih hrest h
    · cases h

/-- So for a prime the drawn tests, when they answer a result, answer that no witness was found. -/
theorem drawnOutcome_of_prime {n : Word} (hn : InDomain n.toNat) (hp : n.toNat.Prime) {answers : List DrawAnswer}
    (hans : ∀ a ∈ answers, a.answers (witnessDraw n) = true) {trials : Nat} {f : Word → Word → CmdOutcome}
    {r0 r1 : Word} (h : drawnOutcome n trials answers f = .result r0 r1) : f 0 0 = .result r0 r1 := by
  by_cases h3 : n = 3
  · rwa [h3, drawnOutcome_three] at h
  rw [drawnOutcome_eq hn h3] at h
  cases hloop : mrDrawLoop n answers trials with
  | result q0 q1 =>
    obtain ⟨rfl, rfl⟩ := mrDrawLoop_of_prime hn hp hans hloop
    rwa [hloop] at h
  | error e | needs r => rw [hloop] at h; cases h

/-- A drawing command whose drawn tests return on a prime returns its answer to no witness. -/
theorem returned_of_prime {i : Instr} {s t : State} {f : InFlight} {trials : Nat} {g : Word → Word → CmdOutcome}
    {r pass : Word} (hi : outcomeOf i s = drawnOutcome s.opa trials s.answers g) (hpass : g 0 0 = .result pass 0)
    (hn : InDomain s.opa.toNat) (hf : s.inflight = some f) (hans : ∀ a ∈ f.answers, a.answers ⟨2, s.opa - 2⟩ = true)
    (ht : Returned s t r 0) (h : exec i s = .next t) (hp : s.opa.toNat.Prime) : r = pass := by
  have hanswers : ∀ a ∈ s.answers, a.answers (witnessDraw s.opa) = true := by rwa [State.answers, hf]
  rw [exec_eq, Host.Outcome.next.injEq] at h
  have hresult : outcomeOf i s = .result r 0 := eq_result_of_returned (h ▸ ht) (.inl (by simp [hf]))
  have hverdict := drawnOutcome_of_prime hn hp hanswers (hi.symm.trans hresult)
  exact (CmdOutcome.result.inj (hverdict.symm.trans hpass)).1

/-- Settles O19: for a prime `MRTEST` can return 0 alone and `ISPRIME` 1 alone, so any other verdict is on a
composite. -/
theorem drawnVerdictsAreSound : Obligations.DrawnVerdictsAreSound := by
  intro s t f r hn hf hans ht
  refine ⟨fun h => ?_, fun h => ?_⟩
  · have hprime := returned_of_prime (i := .mrtest) (mrtestOutcome_eq s.opa s.opb s.answers) rfl hn hf hans ht h
    exact ⟨fun h1 hp => absurd (h1.symm.trans (hprime hp)) (by decide), hprime⟩
  · have hprime := returned_of_prime (i := .isprime) (pass := 1) (isprimeOutcome_eq s.opa s.answers) rfl hn hf hans ht h
    exact ⟨fun h0 hp => absurd (h0.symm.trans (hprime hp)) (by decide), hprime⟩

/-! ### Decryption after encryption (42_elgamal.md rule R180) -/

/-- `g ^ r` to the power `p - 1 - x` cancels the mask `(g ^ x) ^ r`: together they are a power of `g ^ (p - 1)`, which
is 1. -/
theorem elGamal_roundTrip {p g x blk : Nat} (r : Nat) (hp : p.Prime) (hx : x < p) (hg : g % p ≠ 0) (hblk : blk < p) :
    (g ^ r % p) ^ (p - x - 1) % p * (blk * ((g ^ x % p) ^ r % p) % p % p) % p = blk := by
  have := Fact.mk hp
  have hfermat : (g : ZMod p) ^ (p - 1) = 1 :=
    ZMod.pow_card_sub_one_eq_one (mt (ZMod.natCast_eq_zero_iff g p).1 (mt Nat.mod_eq_zero_of_dvd hg))
  have hcancel : ((g : ZMod p) ^ r) ^ (p - x - 1) * ((g : ZMod p) ^ x) ^ r = 1 := by
    rw [← pow_mul, ← pow_mul, ← pow_add, mul_comm x, ← mul_add, show p - x - 1 + x = p - 1 by omega, mul_comm,
      pow_mul, hfermat, one_pow]
  have hcast : (((g ^ r % p) ^ (p - x - 1) % p * (blk * ((g ^ x % p) ^ r % p) % p % p) : Nat) : ZMod p) = blk := by
    push_cast [ZMod.natCast_mod]
    rw [mul_left_comm, hcancel, mul_one]
  rw [ZMod.natCast_eq_natCast_iff'] at hcast
  rw [hcast, Nat.mod_eq_of_lt hblk]

/-- Where g is a multiple of p, the masked block is 0. -/
theorem masked_eq_zero {p g x r : Nat} (blk : Nat) (hg : g % p = 0) (hx : 1 ≤ x) (hr : 1 ≤ r) :
    blk * ((g ^ x % p) ^ r % p) % p = 0 := by
  rw [Nat.pow_mod g x, hg, zero_pow (by omega), Nat.zero_mod, zero_pow (by omega), Nat.zero_mod, mul_zero, Nat.zero_mod]

/-- Settles O25: `DEC` on the pair that `ENC` left computes the way back, and its key and block are in range. -/
theorem elGamalRoundTrip : Obligations.ElGamalRoundTrip := by
  intro s t u hp hbig hx1 hxp hy hblk henc hopa hopd hope
  obtain ⟨t', c1, c2, henc', ht, hc1, hc2⟩ := exec_encrypts (i := .enc) rfl hbig hblk
  obtain rfl := Host.Outcome.next.inj (henc.symm.trans henc')
  have hkey : u.opc.toNat < u.opa.toNat := by rw [hopa]; omega
  have hblkp : s.opd.toNat < s.opa.toNat := by omega
  obtain ⟨-, hdec⟩ := decCommand
  obtain ⟨-, hdec⟩ := hdec u
  obtain ⟨-, hdec⟩ := hdec hkey _ rfl
  rw [hopa, hopd, hope, ht.res0, ht.res1, hc1, hc2, hy, toNat_modExp _ _ (ne_zero_of_lt_toNat hbig)] at hdec
  refine ⟨fun hg => ?_, fun hg hr => ?_⟩
  · rw [elGamal_roundTrip s.ope.toNat hp (by omega) hg hblkp] at hdec
    obtain ⟨v, r, hv, hret, hr⟩ := hdec (by omega)
    exact ⟨v, hv, BitVec.eq_of_toNat_eq hr ▸ hret⟩
  · rw [masked_eq_zero _ hg hx1 hr, Nat.zero_mod, mul_zero, Nat.zero_mod] at hdec
    obtain ⟨v, r, hv, hret, hr⟩ := hdec (by omega)
    exact ⟨v, hv, BitVec.eq_of_toNat_eq (y := 0) hr ▸ hret⟩

end Sys2Proof.Machine

/-! SUPPORT. What decides a command's outcome and when it completes: the registers its operand row lists, the draws it
still needs, and the entropy port; from that the statements of 30_encoding.md section 3 and of the entropy rules. -/

namespace Sys2Proof.Machine

/-! ### A command on given operands -/

theorem exec_raises_of_cause {i : Instr} {s : State} {e : ErrCode} (h : ErrorCause (.ok i) s e) :
    ∃ t, exec i s = .next t ∧ Raised s t e.code :=
  exec_raises (decodedOutcome_of_cause (d := .ok i) h)

/-- Settles O4: zero operands are the cause of the command's own first check in the error table. -/
theorem unloadedCommandsRaiseErrors : Obligations.UnloadedCommandsRaiseErrors := by
  intro i s ha hb hc hd he
  have hsmall : s.opa.toNat < 3 := by rw [ha]; decide
  cases i with
  | modexp => exact exec_raises_of_cause (e := .modulusZero) ⟨.inl rfl, hc⟩
  | mulmod => exact exec_raises_of_cause (e := .modulusZero) ⟨.inr rfl, hc⟩
  | witness => exact exec_raises_of_cause (e := .witnessDomain) ⟨.inl rfl, .inl hsmall⟩
  | mrtest => exact exec_raises_of_cause (e := .witnessDomain) ⟨.inr (.inl rfl), .inl hsmall⟩
  | isprime => exact exec_raises_of_cause (e := .witnessDomain) ⟨.inr (.inr rfl), .inl hsmall⟩
  | enc => exact exec_raises_of_cause (e := .primeTooSmall) ⟨.inl rfl, by omega⟩
  | encr => exact exec_raises_of_cause (e := .primeTooSmall) ⟨.inr rfl, by omega⟩
  | dec => exact exec_raises_of_cause (e := .keyRange) ⟨rfl, .inl ha⟩

/-- The registers of a command's row in the operand table (30_encoding.md rule R93), and the answers where it draws, are
the same. -/
structure SameListed (i : Instr) (s s' : State) : Prop where
  opa : s'.opa = s.opa
  opb : i ≠ .isprime → i ≠ .dec → s'.opb = s.opb
  opc : i ≠ .isprime → i ≠ .witness → i ≠ .mrtest → s'.opc = s.opc
  opd : i = .enc ∨ i = .encr ∨ i = .dec → s'.opd = s.opd
  ope : i = .enc ∨ i = .dec → s'.ope = s.ope
  answers : i = .mrtest ∨ i = .isprime ∨ i = .encr → s'.answers = s.answers

theorem SameListed.outcomeOf_eq {i : Instr} {s s' : State} (h : SameListed i s s') :
    outcomeOf i s' = outcomeOf i s := by
  cases i <;> simp [outcomeOf, h.opa, h.opb, h.opc, h.opd, h.ope, h.answers]

/-- Settles O24: states that agree on the listed registers have one outcome, and the state left shows which it was. -/
theorem unlistedRegistersDoNotMatter : Obligations.UnlistedRegistersDoNotMatter := by
  intro i s s' t hr ha hb hc hd he hans h
  have hsame : outcomeOf i s' = outcomeOf i s := SameListed.outcomeOf_eq ⟨ha, hb, hc, hd, he, hans⟩
  rw [exec_eq] at h
  obtain rfl := Host.Outcome.next.inj h
  refine ⟨fun r0 r1 hret => ?_, fun code hraise => ?_, fun lo hi hreq => ?_⟩
  · exact exec_returns (hsame.trans (eq_result_of_returned hret (.inr hr)))
  · obtain ⟨e, ho, rfl⟩ := eq_error_of_raised hraise hr
    exact exec_raises (hsame.trans ho)
  · exact exec_requests (hsame.trans (eq_needs_of_requested hreq hr))

/-- Settles O26: both commands are `ENC` with their drawn exponent, and completion drops the answers they differ in. -/
theorem drawnExponentNeverExposed : Obligations.DrawnExponentNeverExposed := by
  rintro s _ t t' w r r' more more' hf rfl h h' h0 h1
  have ho : outcomeOf .encr s = encOutcome s.opa s.opb s.opc s.opd r := by
    rw [outcomeOf, State.answers, hf, encrOutcome_ok]
  have ho' : outcomeOf .encr { s with inflight := some ⟨w, .ok r' :: more'⟩ } =
      encOutcome s.opa s.opb s.opc s.opd r' := encrOutcome_ok (answers := more')
  rw [exec_eq, ho] at h
  rw [exec_eq, ho'] at h'
  obtain rfl := Host.Outcome.next.inj h
  obtain rfl := Host.Outcome.next.inj h'
  cases hc : encryptCheck s.opa s.opd with
  | some e => rw [encOutcome_of_check_some hc, encOutcome_of_check_some hc]; rfl
  | none =>
    rw [encOutcome_of_check_none hc, encOutcome_of_check_none hc] at h0 h1 ⊢
    simp only [conclude_result, State.complete_res0, State.complete_res1] at h0 h1 ⊢
    rw [h0, h1]
    rfl

/-! ### The draws a command still needs -/

/-- How many draws a command makes at most (41_primality.md rules R145, R150; 42_elgamal.md rule R175). -/
def drawCount (i : Instr) (s : State) : Nat :=
  match i with
  | .mrtest => s.opb.toNat
  | .isprime => 25
  | .encr => 1
  | .modexp | .mulmod | .witness | .enc | .dec => 0

theorem length_lt_of_mrDrawLoop_needs {n : Word} {answers : List DrawAnswer} {t : Nat} {r : DrawRequest}
    (h : mrDrawLoop n answers t = .needs r) : answers.length < t := by
  induction t generalizing answers with
  | zero => rw [mrDrawLoop_zero] at h; cases h
  | succ t ih =>
    rcases answers with - | ⟨v | -, rest⟩
    · exact t.succ_pos
    · rw [mrDrawLoop_ok_succ] at h
      split_ifs at h
      exact Nat.succ_lt_succ (ih h)
    · cases h

theorem length_lt_of_drawnOutcome_needs {n : Word} {trials : Nat} {answers : List DrawAnswer}
    {f : Word → Word → CmdOutcome} (hf : ∀ r0 r1, ∃ q0 q1, f r0 r1 = .result q0 q1) {r : DrawRequest}
    (h : drawnOutcome n trials answers f = .needs r) : answers.length < trials := by
  have hresult : ∀ r0 r1, f r0 r1 ≠ .needs r := fun r0 r1 hneeds => by
    obtain ⟨q0, q1, hq⟩ := hf r0 r1
    cases hq.symm.trans hneeds
  by_cases hn : InDomain n.toNat
  case neg => rw [drawnOutcome_of_not_inDomain hn] at h; cases h
  by_cases h3 : n = 3
  case pos => rw [h3, drawnOutcome_three] at h; exact absurd h (hresult 0 0)
  rw [drawnOutcome_eq hn h3] at h
  cases hloop : mrDrawLoop n answers trials with
  | result q0 q1 => rw [hloop] at h; exact absurd h (hresult q0 q1)
  | error e => rw [hloop] at h; cases h
  | needs r => exact length_lt_of_mrDrawLoop_needs hloop

/-- A command that waits for an answer has not had all its draws. -/
theorem length_lt_drawCount {i : Instr} {s : State} {r : DrawRequest} (h : outcomeOf i s = .needs r) :
    s.answers.length < drawCount i s := by
  cases i with
  | modexp | mulmod | witness | enc | dec => exact nomatch drawRange_of_needs h
  | mrtest =>
    rw [outcomeOf, mrtestOutcome_eq] at h
    exact length_lt_of_drawnOutcome_needs (fun r0 r1 => ⟨r0, r1, rfl⟩) h
  | isprime =>
    rw [outcomeOf, isprimeOutcome_eq] at h
    exact length_lt_of_drawnOutcome_needs (fun r0 _ => ⟨1 - r0, 0, rfl⟩) h
  | encr =>
    rw [outcomeOf] at h
    cases hc : encryptCheck s.opa s.opd with
    | some e => rw [encrOutcome_of_check_some hc] at h; cases h
    | none =>
      rcases ha : s.answers with - | ⟨v | -, more⟩ <;> rw [ha] at h
      · exact Nat.one_pos
      · rw [encrOutcome_ok, encOutcome_of_check_none hc] at h; cases h
      · rw [encrOutcome_fail hc] at h; cases h

/-! ### The entropy port (10_state.md rule R47; 20_memory.md rule R87) -/

/-- Settles O35: with a request outstanding the engine's turn is to wait. -/
theorem engineWaitsForTheEntropyPort : Obligations.EngineWaitsForTheEntropyPort := by
  intro s r he hr
  rw [step_engine he]
  rcases engineTurn_cases s.taken with ⟨hwait, -⟩ | ⟨f, i, -, hnone, -⟩ | ⟨f, e, -, hnone, -⟩
  · exact hwait
  · exact nomatch (hnone.symm.trans (taken_drawReq s)).trans hr
  · exact nomatch (hnone.symm.trans (taken_drawReq s)).trans hr

/-- The step in which the outstanding request takes its answer. -/
theorem step_answered {s : State} {a : DrawAnswer} {f : InFlight} {r : DrawRequest} (he : s.nextEvent = .entropy a)
    (hf : s.inflight = some f) (hr : s.drawReq = some r) (ha : a.answers r = true) :
    step s = .next { s.taken with inflight := some ⟨f.word, f.answers ++ [a]⟩, drawReq := none } := by
  simp [step_entropy he, State.deliver, hf, hr, ha]

/-- Settles O39: `State.deliver` takes the answer where a request that it answers is outstanding, and ignores it
elsewhere. -/
theorem answersAreTakenInOrder : Obligations.AnswersAreTakenInOrder := by
  refine fun s a he => ⟨fun f r => step_answered he, fun hnone => ?_⟩
  rw [step_entropy he]
  rcases deliver_cases s.taken a with hignored | ⟨f, r, hf, hr, ha, -⟩
  · rw [hignored]
  · rw [taken_inflight] at hf
    rw [taken_drawReq] at hr
    rcases hnone with h | h | ⟨r', h, ha'⟩
    · cases h.symm.trans hf
    · cases h.symm.trans hr
    · obtain rfl := Option.some.inj (h.symm.trans hr)
      cases ha.symm.trans ha'

/-- The three ranges are not empty, because the checks before a draw bound the operand from below. -/
theorem drawRange_cases {i : Instr} {s : State} {r : DrawRequest} (h : drawRange i s = some r) :
    r.lo.toNat ≤ r.hi.toNat ∧
      (((i = .mrtest ∨ i = .isprime) ∧ r.lo = 2 ∧ r.hi.toNat + 2 = s.opa.toNat) ∨
        (i = .encr ∧ r.lo = 1 ∧ r.hi.toNat + 2 = s.opa.toNat)) := by
  have hhi : 3 < s.opa.toNat → (s.opa - 2).toNat + 2 = s.opa.toNat := fun _ => by bv_omega
  cases i with
  | modexp | mulmod | witness | enc | dec => cases h
  | mrtest | isprime =>
    rw [drawRange, Option.ite_none_right_eq_some] at h
    obtain ⟨⟨hlt, hodd⟩, h⟩ := h
    obtain rfl := Option.some.inj h
    have := hhi hlt
    exact ⟨show 2 ≤ (s.opa - 2).toNat by omega, .inl ⟨by simp, rfl, this⟩⟩
  | encr =>
    rw [drawRange, Option.ite_none_right_eq_some] at h
    obtain ⟨⟨hlt, hodd⟩, h⟩ := h
    obtain rfl := Option.some.inj h
    have := hhi (by omega)
    exact ⟨show 1 ≤ (s.opa - 2).toNat by omega, .inr ⟨rfl, rfl, this⟩⟩

/-- Settles O38: of the lifecycle steps, the engine's evaluation alone can leave a request, and from the command's
range. -/
theorem onlyDrawingCommandsRequest : Obligations.OnlyDrawingCommandsRequest := by
  intro s t r h hs ht
  cases step_lifecycle h with
  | reset => cases ht
  | accepted => simp [hs] at ht
  | answered => cases ht
  | undisturbed _ hu => cases (hu.drawReq.trans hs).symm.trans ht
  | concluded f he hf hr =>
    cases ho : decodedOutcome (decode f.word) s with
    | result r0 r1 | error e => simp [ho, hs] at ht
    | needs r' =>
      obtain rfl : r' = r := by simpa [ho] using ht
      cases hd : decode f.word with
      | error e => rw [hd] at ho; cases ho
      | ok i =>
        rw [hd] at ho
        obtain ⟨hle, hcase⟩ := drawRange_cases (drawRange_of_needs ho)
        exact ⟨he, hle, f, hf, by simpa [hd] using hcase⟩

/-! ### Completion in finitely many turns (70_reset_and_hazards.md rule R255) -/

theorem conclude_settled (s : State) {o : CmdOutcome} (h : ∀ r, o ≠ .needs r) :
    (s.conclude o).inflight = none ∧ (s.conclude o).busy = false ∧ (s.conclude o).done = true := by
  cases o with
  | result r0 r1 | error e => exact ⟨rfl, rfl, rfl⟩
  | needs r => exact absurd rfl (h r)

/-- Settles O36: such a word needs no draw that it has not had, so the engine's evaluation completes it. -/
theorem undrawnCommandsCompleteInOneTurn : Obligations.UndrawnCommandsCompleteInOneTurn := by
  intro s w he hf hr hdraw
  have hsettled : ∀ r, decodedOutcome (decode w) s ≠ .needs r := by
    intro r ho
    rcases hdraw with hnone | ⟨hd, hb⟩
    · cases hnone.symm.trans (wordDrawRange_of_needs ho)
    · rw [hd] at ho
      have hlt : s.answers.length < s.opb.toNat := length_lt_drawCount (i := .mrtest) ho
      rw [hb] at hlt
      exact Nat.not_lt_zero _ hlt
  obtain ⟨hinflight, hbusy, hdone⟩ := conclude_settled s.taken hsettled
  exact ⟨_, step_concludes he hf hr, hbusy, hdone, hinflight⟩

theorem nextEvent_of_events {s : State} {e : Event} {rest : List Event} (h : s.events = e :: rest) :
    s.nextEvent = e := by
  rw [State.nextEvent, h]

theorem taken_events_of_events {s : State} {e : Event} {rest : List Event} (h : s.events = e :: rest) :
    s.taken.events = rest := by
  rw [State.taken, h]

theorem drawCount_congr (i : Instr) {s t : State} (h : SameOperands s t) : drawCount i t = drawCount i s := by
  cases i <;> simp only [drawCount, h.opb]

theorem completes_when_settled {i : Instr} {s : State} {taken : List DrawAnswer} (he : s.nextEvent = .engine)
    (hf : s.inflight = some ⟨encode i, taken⟩) (hr : s.drawReq = none) (h : ∀ r, outcomeOf i s ≠ .needs r) :
    ∃ t, Runs 1 s t ∧ t.inflight = none ∧ t.busy = false ∧ t.done = true :=
  ⟨_, runs_succ.2 ⟨_, step_exec he hf hr (decode_encode i), runs_zero.2 rfl⟩, conclude_settled s.taken h⟩

/-- A request and its answer take two steps, and leave the command with one more answer. -/
theorem runs_draw {i : Instr} {s : State} {taken : List DrawAnswer} {a : DrawAnswer} {r : DrawRequest}
    {rest : List Event} (hf : s.inflight = some ⟨encode i, taken⟩) (hr : s.drawReq = none)
    (hev : s.events = .engine :: .entropy a :: rest) (ho : outcomeOf i s = .needs r) (ha : a.answers r = true) :
    ∃ u, (∀ k t, Runs k u t → Runs (k + 2) s t) ∧ u.inflight = some ⟨encode i, taken ++ [a]⟩ ∧ u.drawReq = none ∧
      u.events = rest ∧ SameOperands s u := by
  have hrequest := step_exec (nextEvent_of_events hev) hf hr (decode_encode i)
  rw [ho, conclude_needs] at hrequest
  have hev' : (s.taken.issueDraw r).events = .entropy a :: rest := taken_events_of_events hev
  have hanswer := step_answered (nextEvent_of_events hev') ((taken_inflight s).trans hf) rfl ha
  exact ⟨_, fun k t hrun => runs_succ.2 ⟨_, hrequest, runs_succ.2 ⟨_, hanswer, hrun⟩⟩, rfl, rfl,
    taken_events_of_events hev', sameOperands_iff.2 (by simp)⟩

/-- With the answers `as` still to come, as many as the draws it may still make, a command completes on the schedule
that brings them. -/
theorem completes_on_drawSchedule {i : Instr} {rest : List Event} (as : List DrawAnswer) {s : State}
    {taken : List DrawAnswer} (hf : s.inflight = some ⟨encode i, taken⟩) (hr : s.drawReq = none)
    (hev : s.events = drawSchedule as ++ rest) (hcount : drawCount i s ≤ taken.length + as.length)
    (has : ∀ a ∈ as, ∀ r, drawRange i s = some r → a.answers r = true) :
    ∃ k t, k ≤ 2 * as.length + 1 ∧ Runs k s t ∧ t.inflight = none ∧ t.busy = false ∧ t.done = true := by
  induction as generalizing s taken with
  | nil =>
    obtain ⟨t, hrun, hend⟩ := completes_when_settled (nextEvent_of_events hev) hf hr fun r ho => by
      have hlt := length_lt_drawCount ho
      rw [State.answers, hf] at hlt
      exact Nat.not_lt.2 hcount hlt
    exact ⟨1, t, le_rfl, hrun, hend⟩
  | cons a as ih =>
    by_cases hsettled : ∀ r, outcomeOf i s ≠ .needs r
    · obtain ⟨t, hrun, hend⟩ := completes_when_settled (nextEvent_of_events hev) hf hr hsettled
      exact ⟨1, t, by omega, hrun, hend⟩
    obtain ⟨r, ho⟩ : ∃ r, outcomeOf i s = .needs r := by simpa using hsettled
    obtain ⟨hhere, hlater⟩ := List.forall_mem_cons.1 has
    obtain ⟨u, hruns, huf, hur, huev, hops⟩ := runs_draw hf hr hev ho (hhere r (drawRange_of_needs ho))
    have hucount : drawCount i u ≤ (taken ++ [a]).length + as.length := by
      rw [drawCount_congr i hops, List.length_append, List.length_singleton, add_right_comm]
      exact hcount
    rw [← drawRange_congr i hops.opa hops.opd] at hlater
    obtain ⟨k, t, hk, hrun, hend⟩ := ih huf hur huev hucount hlater
    exact ⟨k + 2, t, by rw [List.length_cons]; omega, hruns k t hrun, hend⟩

/-- Settles O37: at its start a command has taken no answer, and the schedule brings as many as it may draw. -/
theorem drawingCommandsCompleteWhenAnswered : Obligations.DrawingCommandsCompleteWhenAnswered := by
  intro s i as rest hi hf hr hev has
  have hcount : drawCount i s = as.length := by
    rcases hi with ⟨rfl, h⟩ | ⟨rfl, h⟩ | ⟨rfl, h⟩ <;> exact h.symm
  exact completes_on_drawSchedule as hf hr hev (by simp [hcount]) has

end Sys2Proof.Machine

/-! SUPPORT. The agents around the engine: a placed command word, the lines of the host program, and what can stop the
machine; from that the statements of 30_encoding.md section 5 and of 60_exceptions.md sections 1 and 2. -/

namespace Sys2Proof.Machine

/-! ### A placed command word -/

theorem decodeTableWord_toNat (w : Word) : decodeTableWord 64 w.toNat = (decode w).toOption := by
  have hw : w.toNat % 2 ^ 64 = w.toNat := Nat.mod_eq_of_lt w.isLt
  rw [decodeTableWord, hw, if_pos w.isLt, BitVec.ofNat_toNat, BitVec.setWidth_eq, decodeBytes_byteLanes]

@[simp] theorem tableWord_toNat (w : Word) : tableWord 64 w.toNat = w := by
  rw [tableWord, Nat.mod_eq_of_lt w.isLt, BitVec.ofNat_toNat, BitVec.setWidth_eq]

/-- Settles O6: placing puts the engine's turn first, and that executes the word just placed. -/
theorem placedCommandRunsNext : Obligations.PlacedCommandRunsNext := by
  intro i s
  have hword : s.withFetchWord 64 (encode i).toNat = s.withCommand (encode i) := by
    rw [State.withFetchWord, tableWord_toNat]
  have hstep := stepExecutesDecodedCommand (s.withCommand (encode i)) ⟨encode i, []⟩ i rfl rfl rfl (decode_encode i)
  refine ⟨(s.withCommand (encode i)).taken, by rw [hword, hstep], ?_, ⟨rfl, rfl, rfl⟩, ?_⟩
  · exact ⟨rfl, rfl, rfl, rfl, rfl, BitVec.setWidth_eq_extractLsb' (x := encode i) (by decide), rfl, rfl, rfl, rfl,
      ⟨rfl, rfl, rfl, rfl, rfl, rfl⟩⟩
  · rw [decodeTableWord_toNat, decode_encode]
    rfl

/-! ### The lines of the host program (30_encoding.md rules R98, R99) -/

@[simp] theorem writeReg_host (s : State) (r : Reg) (v : Word) : (s.writeReg r v).host = s.host := by
  rcases writeReg_cases s r v with h | h | h | h | ⟨-, h | h | h | h | h | h⟩ <;> simp [h]

/-- A register write sees the engine alone. -/
theorem writeReg_taken (s : State) (r : Reg) (v : Word) :
    s.taken.writeReg r v = { s.writeReg r v with events := s.taken.events, tick := s.taken.tick } := by
  rw [taken_eq]
  cases r with
  | id | ctrl | status | res0 | res1 => rfl
  | cmd | opa | opb | opc | opd | ope =>
    cases hb : s.busy <;> simp [State.writeReg, State.writeOperand, State.raiseOvr, State.accept, hb]

/-- Settles O55: the line's own register write, or its own read, and then the host agent's records. -/
theorem hostBusLines : Obligations.HostBusLines := by
  refine ⟨fun s r e he hl => ?_, fun s r x hv he hl => ?_⟩
  · refine ⟨s.writeReg r (e.word s.host.vars), _, memWrite_reg s r _, step_line he hl, ?_, ?_, ?_, ?_, ?_⟩
    · simp [writeReg_taken, sameButOvr_iff, sameOperands_iff]
    all_goals simp [HostExpr.word]
  · refine ⟨s.x r, _, memRead_reg s r, step_line he hl, sameEngine_taken_host s _, ?_, ?_, ?_, ?_, ?_⟩
    · simp
    · simp
    · simpa using varGet_varSet_same hv x (s.x r)
    · exact fun y hy => by simpa using varGet_varSet_other hy s.host.vars (s.x r)
    · simp

/-- Settles O56: each line's meaning, on a label that `labelLine_of_unique` finds. -/
theorem hostControlLines : Obligations.HostControlLines := by
  refine ⟨varGet_nil, fun s he hv => ⟨fun x e hl => ?_, fun l hl => ?_, fun l e hl hz => ?_, fun l n hl hn hu => ?_,
    fun hl => step_line he hl⟩⟩
  · refine ⟨_, step_line he hl, sameEngine_taken_host s _, ?_, ?_, ?_, ?_⟩
    · simp
    · simp
    · have hx := varGet_varSet_same hv x (e.word s.host.vars)
      simpa [HostExpr.word] using congrArg BitVec.toNat hx
    · exact fun y hy => by simpa using varGet_varSet_other hy s.host.vars (e.word s.host.vars)
  · rw [step_line he hl, execLine, State.nextLine, taken_host]
  · rw [step_line he hl, execLine, taken_host, if_pos hz, State.nextLine, taken_host]
  · have hbranch : s.taken.branch l = .next { s.taken with host := { s.host with line := n } } := by
      rw [State.branch, taken_host, labelLine_of_unique hn hu]
      simp only [State.gotoLine, taken_host]
    rcases hl with ⟨e, hl, hz⟩ | hl
    · rw [step_line he hl, execLine, taken_host, if_neg hz, hbranch]
    · rw [step_line he hl, execLine, hbranch]

/-! ### What can stop the machine (60_exceptions.md rule R200; 20_memory.md rule R76) -/

theorem step_engine_next {s : State} (he : s.nextEvent = .engine) : ∃ t, step s = .next t := by
  rw [step_engine he]
  rcases engineTurn_cases s.taken with ⟨h, -⟩ | ⟨f, i, -, -, -, h⟩ | ⟨f, e, -, -, -, h⟩ <;> exact ⟨_, h⟩

/-- Settles O31: the events one by one; the port refuses by the admission test and the host agent by the label. -/
theorem onlyBadAccessesAndLabelsStop : Obligations.OnlyBadAccessesAndLabelsStop := by
  refine ⟨?_, fun s => ?_⟩
  · rintro s (he | ⟨a, he⟩ | he)
    · exact step_engine_next he
    · exact ⟨_, step_entropy he⟩
    · exact ⟨_, step_reset he⟩
  cases he : s.nextEvent with
  | engine => exact .inl (step_engine_next he)
  | entropy a => exact .inl ⟨_, step_entropy he⟩
  | reset => exact .inl ⟨_, step_reset he⟩
  | access a =>
    rw [step_access he]
    rcases busAccess_cases s.taken a with h | ⟨off, v, h⟩ | ⟨addr, n, h, ha, hadmit⟩
    · exact .inl ⟨_, h⟩
    · exact .inl ⟨_, h⟩
    · exact .inr (.inl ⟨addr, n, h, by simpa using ha, admittedOffset_none hadmit⟩)
  | host =>
    rw [step_host he]
    rcases hostTurn_cases s.taken with ⟨l, hl, hturn⟩ | ⟨-, hturn⟩
    · rw [hturn]
      rcases execLine_cases l s.taken with ⟨r, e, -, h⟩ | ⟨a, h, -⟩ | ⟨n, h, hbranch, hlabel⟩
      · exact .inl ⟨_, h⟩
      · exact .inl ⟨_, h⟩
      · rw [taken_host] at hl hbranch hlabel
        refine .inr (.inr ⟨n, h, rfl, ?_, hlabel⟩)
        rcases hbranch with ⟨e, rfl, hz⟩ | rfl
        · exact .inl ⟨e, hl, hz⟩
        · exact .inr hl
    · exact .inl ⟨_, hturn⟩

end Sys2Proof.Machine
